-- ==== Sys2Proof/Word.lean ====
section
/-! DEFINITION. The byte, the only word of the block (spec/00_scope.md R6 `BYTE_W`, R8). -/

namespace Sys2Proof

/-- A byte: an unsigned 8-bit value (00_scope.md R8; bit 0 is the least significant). -/
abbrev Byte := BitVec 8

end Sys2Proof
end

