-- ==== Sys2Proof/Config.lean ====
section
/-! DEFINITION. What an instance of the block fixes: the constants of spec/00_scope.md R6, the parameters of R7, and the
one free value. -/

namespace Sys2Proof.Config

/-- `DELIM`, the frame delimiter (00_scope.md R6, 30_encoding.md R61). -/
abbrev delim : Byte := 0x7E#8

/-- `ESC`, the escape byte (00_scope.md R6, 30_encoding.md R62). -/
abbrev esc : Byte := 0x7D#8

/-- `ESC_XOR`, the mask XORed onto the byte after an escape (00_scope.md R6). -/
abbrev escXor : Byte := 0x20#8

/-- `CK_MOD`, the modulus of the checksum (00_scope.md R6, 42_validator.md R123: 255, not 256). -/
abbrev ckMod : Nat := 255

/-- `MIN_CAND`, the least candidate length that is emitted (00_scope.md R6). -/
abbrev minCand : Nat := 3

/-- `N_AXES`, the number of channel fields (00_scope.md R6). -/
abbrev nAxes : Nat := 16

/-- `AXIS_W`, the width of a channel field in bits (00_scope.md R6). -/
abbrev axisW : Nat := 11

/-- `TYPE_CONTROL` (00_scope.md R6, 30_encoding.md R65). -/
abbrev typeControl : Byte := 0x00#8

/-- `TYPE_DOWNLINK` (00_scope.md R6, 30_encoding.md R65). -/
abbrev typeDownlink : Byte := 0x01#8

/-- `DL_MIN_BYTES`, the least unstuffed Downlink payload length (00_scope.md R6, 43_decoder.md R140). -/
abbrev dlMinBytes : Nat := 7

/-- The parameters that the document leaves open (00_scope.md R7; 92_eei_decisions.md D4, D5, D12, D13). They are fixed
when the block is instantiated and cannot change while it runs (60_exceptions.md R172). -/
structure Params where
  /-- `CAP`, capacity of the frame buffer in bytes; `none` is unbounded (D5). -/
  cap : Option Nat
  /-- `TERMINATOR_REOPENS`: whether the delimiter that closes a candidate also opens the next frame (D4). -/
  terminatorReopens : Bool
  /-- `CTRL_SW_BIT`, bit offset of `switches[0]` (D12). -/
  ctrlSwBit : Nat
  /-- `CTRL_PAD_BIT`, bit offset of the 4-bit pad (D12). -/
  ctrlPadBit : Nat
  /-- `CTRL_FLAG_BIT`, bit offset of `flags[0]` (D12). -/
  ctrlFlagBit : Nat
  /-- `CTRL_MIN_BYTES`, least unstuffed Control payload length (D13). -/
  ctrlMinBytes : Nat
deriving DecidableEq, Repr

/-- The defaults of 00_scope.md R7. -/
def Params.default : Params where
  cap := none
  terminatorReopens := false
  ctrlSwBit := 176
  ctrlPadBit := 178
  ctrlFlagBit := 182
  ctrlMinBytes := 24

/-- Alternative B of 92_eei_decisions.md D12, the S.Bus-like tail (43_decoder.md R137). -/
def Params.alternativeB : Params :=
  { Params.default with ctrlSwBit := 176, ctrlPadBit := 180, ctrlFlagBit := 176, ctrlMinBytes := 23 }

/-- Settings that the spec admits: a finite `CAP` of at least 3, and a Control minimum that holds every bit the Control
decoder reads (the closing table of 92_eei_decisions.md; 43_decoder.md R133: `read_bits` is never called past the end).
DEDUCED (log entry 12): the axes and the pad, which D13's formula leaves unsaid, must fit too. -/
abbrev Params.ok (p : Params) : Prop :=
  (∀ c ∈ p.cap, minCand ≤ c) ∧ nAxes * axisW ≤ 8 * p.ctrlMinBytes ∧ p.ctrlSwBit + 2 ≤ 8 * p.ctrlMinBytes ∧
    p.ctrlPadBit + 4 ≤ 8 * p.ctrlMinBytes ∧ p.ctrlFlagBit + 4 ≤ 8 * p.ctrlMinBytes

/-- FREE VALUE: what a storage cell at an index beyond the end of a byte sequence holds ("unspecified values, ... no
operation reads them", 20_memory.md R48; 93_implementation_defined.md U13, U16). It has no body: nothing can be proved of
it. With parameters that are `ok` no operation of a run reads it (log entry 7). -/
opaque storageBeyond : Nat → Byte

end Sys2Proof.Config
end

