-- ==== Sys2Proof/Syntax.lean ====
section
/-! DEFINITION. The operations of the block, one constructor per row of spec/opcode_table.json, and the keys that select
them (spec/30_encoding.md R79). -/

namespace Sys2Proof

/-- The assembler's state `st` (10_state.md R21). -/
inductive SyncState where
  /-- `HUNT`: no frame is open. -/
  | hunt
  /-- `OPEN`: a delimiter was seen with no matching close yet. -/
  | opened
deriving DecidableEq, Repr

/-- The operations. An operand is the byte a row is keyed on, where the key leaves it open; the other operands (the
candidate, the payload) are the transients that the state holds. -/
inductive Instr where
  /-- SYNC: open a frame at a delimiter (40_assembler.md R91). -/
  | sync
  /-- DROP: ignore a byte while no frame is open (R92). -/
  | drop (b : Byte)
  /-- RESTART: a delimiter after two or fewer bytes re-opens the frame (R94). -/
  | restart
  /-- CLOSE: a delimiter after three or more bytes ends the frame and resolves it (R95). -/
  | close
  /-- PUSH: collect a byte of the open frame (R93). -/
  | push (b : Byte)
  /-- OVERFLOW: a byte of the open frame finds the buffer full (R96). -/
  | overflow (b : Byte)
  /-- UNSTUFF.ESC: an escape byte of the raw payload (41_unstuffer.md R110, R111). -/
  | unstuffEsc
  /-- UNSTUFF.PLAIN: any other byte of the raw payload (R110, R111). -/
  | unstuffPlain (b : Byte)
  /-- CHKLEN: the length check (42_validator.md R122). -/
  | chklen
  /-- CHKSUM: the checksum check (R123). -/
  | chksum
  /-- CONTROL: decode a Control payload (43_decoder.md R134, R135). -/
  | control
  /-- DOWNLINK: decode a Downlink payload (R140, R141). -/
  | downlink
  /-- UNKNOWN: any other frame type `t` (R142). -/
  | unknown (t : Byte)
  /-- FEED: a chunk of input bytes (44_pipeline.md R153). -/
  | feed (chunk : List Byte)
  /-- RESET (44_pipeline.md R156). -/
  | reset
deriving DecidableEq, Repr

/-- What selects a row beside the key byte: `fields.level` of the table with that level's condition (30_encoding.md R79). -/
inductive Level where
  /-- Level `byte`, keyed on the input byte: `st`, `len(buf)` and `CAP` (40_assembler.md R90), with `fault = none`. -/
  | byte (st : SyncState) (len : Nat) (cap : Option Nat)
  /-- Level `unstuffer`, keyed on a raw payload byte. -/
  | unstuffer
  /-- Level `validator`, no key: whether CHKLEN has passed. -/
  | validator (lenPassed : Bool)
  /-- Level `frame`, keyed on the type byte `C[1]`. -/
  | frame
  /-- Level `host`, no key: whether `rst = 1`. -/
  | host (rst : Bool)
deriving DecidableEq, Repr

/-- Why a decoder names no operation. -/
inductive DecodeError where
  /-- Level `byte` with no input byte. -/
  | noInputByte
  /-- Level `unstuffer` with no raw payload byte. -/
  | noRawByte
  /-- Level `frame` with no type byte. -/
  | noTypeByte
deriving DecidableEq, Repr

end Sys2Proof
end

