-- ==== Sys2Proof/WellFormed.lean ====
section
/-! DEFINITION. Which terms of `Instr` stand for an operation of the block, and which rows a level offers
(spec/40_assembler.md R90, spec/30_encoding.md R75, R76, R79). -/

namespace Sys2Proof

/-- An operand that a catch-all row may carry: the rows tried before it would have taken the other values
(30_encoding.md R79). -/
def Instr.wf : Instr → Bool
  | .drop b => b != Config.delim
  | .push b => b != Config.delim
  | .overflow b => b != Config.delim
  | .unstuffPlain b => b != Config.esc
  | .unknown t => t != Config.typeControl && t != Config.typeDownlink
  | .sync | .restart | .close | .unstuffEsc | .chklen | .chksum | .control | .downlink | .feed _ | .reset => true

/-- Whether a buffer of `len` bytes has room for one more (40_assembler.md R90: PUSH when `len(buf) < CAP`). -/
abbrev hasRoom (cap : Option Nat) (len : Nat) : Bool :=
  match cap with
  | none => true
  | some c => decide (len < c)

/-- The rows a level offers, by the table's conditions other than the key byte (40_assembler.md R90; 30_encoding.md R79). -/
def Instr.offeredAt : Instr → Level → Bool
  | .sync, .byte .hunt _ _ => true
  | .drop _, .byte .hunt _ _ => true
  | .restart, .byte .opened len _ => decide (len < Config.minCand)
  | .close, .byte .opened len _ => decide (Config.minCand ≤ len)
  | .push _, .byte .opened len cap => hasRoom cap len
  | .overflow _, .byte .opened len cap => !hasRoom cap len
  | .unstuffEsc, .unstuffer => true
  | .unstuffPlain _, .unstuffer => true
  | .chklen, .validator lenPassed => !lenPassed
  | .chksum, .validator lenPassed => lenPassed
  | .control, .frame => true
  | .downlink, .frame => true
  | .unknown _, .frame => true
  | .feed _, .host rst => !rst
  | .reset, .host rst => rst
  | _, _ => false

end Sys2Proof
end

