-- ==== Sys2Proof/Decode.lean ====
section
/-! DEFINITION. The decoder of spec/opcode_table.json, total on any bytes, rejecting by name; the encoder; and the reading
of a table word that carries no level (spec/30_encoding.md R75, R76, R79; spec/40_assembler.md R90). -/

namespace Sys2Proof

/-- One row's key: a byte `k` matches when `k & mask = pattern` (30_encoding.md R79). -/
structure OpcodeRow where
  pattern : Byte
  mask : Byte
  priority : Nat
deriving DecidableEq, Repr

/-- Whether a key byte matches a row (30_encoding.md R79). -/
def OpcodeRow.covers (r : OpcodeRow) (k : Byte) : Bool := k &&& r.mask == r.pattern

/-- The `match`, `mask` and `fields.priority` of each row, as spec/opcode_table.json has them (the host rows have no
priority there: 1 stands for it). -/
def Instr.row : Instr → OpcodeRow
  | .sync => ⟨0x7E#8, 0xFF#8, 1⟩
  | .drop _ => ⟨0x00#8, 0x00#8, 2⟩
  | .restart => ⟨0x7E#8, 0xFF#8, 1⟩
  | .close => ⟨0x7E#8, 0xFF#8, 1⟩
  | .push _ => ⟨0x00#8, 0x00#8, 2⟩
  | .overflow _ => ⟨0x00#8, 0x00#8, 2⟩
  | .unstuffEsc => ⟨0x7D#8, 0xFF#8, 1⟩
  | .unstuffPlain _ => ⟨0x00#8, 0x00#8, 2⟩
  | .chklen => ⟨0x00#8, 0x00#8, 1⟩
  | .chksum => ⟨0x00#8, 0x00#8, 2⟩
  | .control => ⟨0x00#8, 0xFF#8, 1⟩
  | .downlink => ⟨0x01#8, 0xFF#8, 1⟩
  | .unknown _ => ⟨0x00#8, 0x00#8, 2⟩
  | .feed _ => ⟨0x00#8, 0x00#8, 1⟩
  | .reset => ⟨0x00#8, 0x00#8, 1⟩

/-- One input byte selects exactly one of the six assembler operations (40_assembler.md R90). A buffer longer than `CAP`,
which no run reaches, counts as full (DEDUCED, log entry 9). -/
def decodeInputByte (st : SyncState) (len : Nat) (cap : Option Nat) (b : Byte) : Instr :=
  match st with
  | .hunt => if b = Config.delim then .sync else .drop b
  | .opened =>
    if b = Config.delim then (if len < Config.minCand then .restart else .close)
    else if hasRoom cap len then .push b else .overflow b

/-- A raw payload byte is an escape or plain (30_encoding.md R75). A `0x7E`, which cannot stand in a raw payload, falls
to the catch-all row of the table as R110's "whatever the input" asks. -/
def decodeRawByte (b : Byte) : Instr := if b = Config.esc then .unstuffEsc else .unstuffPlain b

/-- DISPATCH: the frame type map, closed and exhaustive, on the whole byte (30_encoding.md R65, R76; 43_decoder.md R131). -/
def decodeFrameType (t : Byte) : Instr :=
  if t = Config.typeControl then .control else if t = Config.typeDownlink then .downlink else .unknown t

/-- The operation that a level reads from bytes, and the bytes it leaves. A level with no key takes none, but for FEED,
whose chunk is every byte there is (30_encoding.md R79). -/
def decode : Level → List Byte → Except DecodeError (Instr × List Byte)
  | .byte st len cap, b :: rest => .ok (decodeInputByte st len cap b, rest)
  | .byte _ _ _, [] => .error .noInputByte
  | .unstuffer, b :: rest => .ok (decodeRawByte b, rest)
  | .unstuffer, [] => .error .noRawByte
  | .validator false, bs => .ok (.chklen, bs)
  | .validator true, bs => .ok (.chksum, bs)
  | .frame, t :: rest => .ok (decodeFrameType t, rest)
  | .frame, [] => .error .noTypeByte
  | .host false, bs => .ok (.feed bs, [])
  | .host true, bs => .ok (.reset, bs)

/-- The bytes of an operation: its key byte where its row is keyed on one, its chunk for FEED, none for the others. -/
def encode : Instr → List Byte
  | .sync => [Config.delim]
  | .drop b => [b]
  | .restart => [Config.delim]
  | .close => [Config.delim]
  | .push b => [b]
  | .overflow b => [b]
  | .unstuffEsc => [Config.esc]
  | .unstuffPlain b => [b]
  | .chklen => []
  | .chksum => []
  | .control => [Config.typeControl]
  | .downlink => [Config.typeDownlink]
  | .unknown t => [t]
  | .feed chunk => chunk
  | .reset => []

/-- The bytes of a word of `n` bytes numbered as the table numbers them: bits 7..0 are the first byte. -/
def wordBytes : Nat → Nat → List Byte
  | 0, _ => []
  | n + 1, w => BitVec.ofNat 8 w :: wordBytes n (w / 256)

/-- DESIGN CHOICE (log entry 11): the level at which a table word is read, since the word itself carries none. A byte that
a row of level `unstuffer` or `frame` matches in full is read there; every other byte is an input byte of the block after
reset; a word of no bits is the key-less FEED. -/
def tableLevel : List Byte → Level
  | [] => .host false
  | k :: _ =>
    if k = Config.esc then .unstuffer
    else if k = Config.typeControl ∨ k = Config.typeDownlink then .frame
    else .byte .hunt 0 none

/-- The operation that the decoder reads from a word of the opcode table (log entry 11 for the level it is read at). -/
def decodeTableWord (nbits w : Nat) : Option Instr :=
  match decode (tableLevel (wordBytes ((nbits + 7) / 8) w)) (wordBytes ((nbits + 7) / 8) w) with
  | .ok (i, _) => some i
  | .error _ => none

end Sys2Proof
end

