-- ==== Sys2Proof/Machine/State.lean ====
section
/-! DEFINITION. The state of the block: the triple `(st, buf, fault)` of spec/10_state.md R20, the transients of R27 and
R28, and the model's own fields (what the host presents, what the sink received, the parameters). -/

namespace Sys2Proof.Machine

/-- The sticky mark `fault` (10_state.md R23). -/
inductive FaultMark where
  /-- `none`. -/
  | none
  /-- `Overflow`: a byte found the buffer full (40_assembler.md R96). -/
  | overflow
deriving DecidableEq, Repr

/-- The frame buffer: (address, byte) pairs (10_state.md R32, 20_memory.md R48). Its canonical form is `Memory.wf`. -/
abbrev Memory := List Host.Cell

/-- The four error outcomes (60_exceptions.md R160). -/
inductive ErrorKind where
  /-- CHKLEN failed (42_validator.md R122). -/
  | lengthMismatch
  /-- CHKSUM failed (42_validator.md R123). -/
  | checksumMismatch
  /-- The type byte is neither `0x00` nor `0x01` (43_decoder.md R142). -/
  | unknownFrameType
  /-- The payload is shorter than its decoder reads (43_decoder.md R134, R140). -/
  | shortPayload
deriving DecidableEq, Repr

/-- The fields of a `Control` event (30_encoding.md R81). Bit `k` of `switches` is `switches[k]`. -/
structure ControlMsg where
  axes : Vector (BitVec 11) 16
  switches : BitVec 2
  frameLost : Bool
  failsafe : Bool
deriving DecidableEq, Repr

/-- The fields of a `Downlink` event (30_encoding.md R82). -/
structure DownlinkMsg where
  primitiveId : Byte
  appId : BitVec 16
  data : Vector Byte 4
deriving DecidableEq, Repr

/-- An event: a tagged value of six kinds, the fields of the other kinds absent (30_encoding.md R80, R83). -/
inductive Event where
  | control (m : ControlMsg)
  | downlink (m : DownlinkMsg)
  | err (e : ErrorKind)
deriving DecidableEq, Repr

/-- What the host presents at the boundary (44_pipeline.md R150, R153). -/
inductive Request where
  /-- One transaction on the lines `rst`, `in_valid`, `in_byte` (`none` when `in_valid` is 0). -/
  | drive (rst : Bool) (inByte : Option Byte)
  /-- A call `feed(chunk)`, or what is left of one: the bytes of its chunk that are not consumed yet (log entry 17). -/
  | feed (chunk : List Byte)
deriving DecidableEq, Repr

/-- Which operation of `resolve` comes next (44_pipeline.md R152). -/
inductive Phase where
  /-- No resolution is in progress: every state between two steps of the block. -/
  | idle
  /-- CHKLEN comes next. -/
  | checkLength
  /-- CHKSUM comes next. -/
  | checkSum
  /-- The raw payload is unstuffed byte by byte, then the frame type selects a decoder. -/
  | payload
deriving DecidableEq, Repr

/-- The transients of one resolution (10_state.md R27, R28; log entry 4). -/
structure Transients where
  phase : Phase
  /-- The candidate `C`. -/
  cand : List Byte
  /-- Raw payload bytes not yet unstuffed. -/
  raw : List Byte
  /-- The unstuffer's flag (41_unstuffer.md R111). -/
  esc : Bool
  /-- The payload `U` so far. -/
  out : List Byte
deriving DecidableEq, Repr

/-- No resolution in progress; nothing of an earlier one is retained (10_state.md R27). -/
def Transients.none : Transients := ⟨.idle, [], [], false, []⟩

/-- The state. `st`, `buf` and `fault` are the spec's (10_state.md R20); `tr` holds the transients of R27; `params`,
`port` and `sink` are the model's own (log entries 2, 3, 5). -/
structure State where
  st : SyncState
  buf : Memory
  fault : FaultMark
  tr : Transients
  params : Config.Params
  port : List Request
  sink : List Event
deriving DecidableEq, Repr

/-- No operation of the block stops the machine: an error is an event (60_exceptions.md R162) and an overflow is a state
(40_assembler.md R96). So there is no fault. -/
inductive Fault where
deriving DecidableEq, Repr

/-- Why a step has no meaning. -/
inductive Refusal where
  /-- Raised by an arm of `exec` that has no meaning yet; none is left. Safe. -/
  | notModelled (mnemonic : String)
  /-- Raised by `step` when the decoder is given no key byte: a resolution of a candidate with no type byte, which no run
  reaches. Safe. -/
  | undecodable (e : DecodeError)
deriving DecidableEq, Repr

/-- The machine right after reset: `st = HUNT`, `buf = []`, `fault = none` (10_state.md R30, 70_reset_and_hazards.md
R180); no transient, the default parameters, nothing presented, nothing delivered (log entries 2 to 5). -/
def State.reset : State where
  st := .hunt
  buf := []
  fault := .none
  tr := .none
  params := .default
  port := []
  sink := []

end Sys2Proof.Machine
end

