-- ==== Sys2Proof/Machine/Ops.lean ====
section
/-! DEFINITION. The named operations over the frame buffer and the state; raising an error (spec/60_exceptions.md R165) is
one of them. -/

namespace Sys2Proof.Machine

/-! ## The frame buffer (10_state.md R32; 20_memory.md R48; 00_scope.md R10) -/

/-- The sequence of bytes that the buffer holds, the first received first (20_memory.md R40). -/
def Memory.bytes (m : Memory) : List Byte := m.map Prod.snd

/-- `len(buf)`. -/
def Memory.size (m : Memory) : Nat := m.length

/-- The byte at one address; an unlisted address reads as no value (log entry 8). -/
def Memory.read (m : Memory) (a : Nat) : Option Byte :=
  match m with
  | [] => none
  | c :: cs => if c.1 = a then some c.2 else Memory.read cs a

/-- `MemRead(addr, n)`: the bytes from index `addr` on, `n` of them (00_scope.md R10). -/
def Memory.readRange (m : Memory) (addr n : Nat) : List Byte := (m.bytes.drop addr).take n

/-- `MemWrite(len(buf), 1, b)`, the only store (00_scope.md R10, 40_assembler.md R93). -/
def Memory.append (m : Memory) (b : Byte) : Memory := m ++ [(m.size, b)]

/-- `buf <- []` (20_memory.md R54). -/
def Memory.clear : Memory := []

/-- The buffer that holds a sequence of bytes from index 0 on. -/
def Memory.ofBytes (bs : List Byte) : Memory := bs.foldl Memory.append Memory.clear

/-- The canonical form: the addresses are `0, 1, ..., len(buf)-1` in this order (10_state.md R32). -/
abbrev Memory.wf (m : Memory) : Prop := m.map Prod.fst = List.range m.length

/-! ## The state -/

/-- "When `fault != none` no operation applies" (40_assembler.md R90): the state is left unchanged (R96). -/
def State.unlessFaulted (s : State) (f : State → State) : State :=
  if s.fault = .none then f s else s

/-- Hand one event to the sink, after those of earlier steps (44_pipeline.md R150, R158). -/
def State.deliver (s : State) (e : Event) : State := { s with sink := s.sink ++ [e] }

/-- End a resolution with its event; no transient is retained (10_state.md R27). -/
def State.finish (s : State) (e : Event) : State := { s.deliver e with tr := .none }

/-- `raise`: the resolution ends with the event `Err(k)`; nothing is saved and nothing else changes (60_exceptions.md R162,
R165). There is no return to model (R166). -/
def State.raiseError (s : State) (k : ErrorKind) : State := s.finish (.err k)

/-- The requests `p` with the rest of a chunk before them; of a chunk that is used up nothing is left (44_pipeline.md R153:
"nothing about the chunk boundary is remembered"). -/
def pendFeed (chunk : List Byte) (p : List Request) : List Request :=
  match chunk with
  | [] => p
  | b :: rest => .feed (b :: rest) :: p

/-- `st` after a CLOSE (40_assembler.md R95). -/
def stAfterClose (p : Config.Params) : SyncState := if p.terminatorReopens then .opened else .hunt

/-- What a CLOSE does to the assembler, whatever the candidate resolves to (40_assembler.md R95, 60_exceptions.md R163). -/
def State.endFrame (s : State) : State := { s with buf := Memory.clear, st := stAfterClose s.params }

/-- The state in which a CLOSE has taken its candidate and no check has been made: the resolution, operation by
operation, starts here (44_pipeline.md R152; log entry 4). -/
def State.latchCandidate (s : State) : State :=
  { s.endFrame with tr := { phase := .checkLength, cand := s.buf.bytes, raw := [], esc := false, out := [] } }

end Sys2Proof.Machine
end

