-- ==== Sys2Proof/Machine/Operands.lean ====
section
/-! DEFINITION. The operand forms: bytes and bit fields of a sequence, the fields of a candidate, the unstuffed payload, and
the fields of the two payloads. -/

namespace Sys2Proof.Machine

/-! ## Bytes and bits (00_scope.md R8, R9) -/

/-- `p[i]`; past the end, what a storage cell beyond the sequence holds (log entry 7). -/
def byteAt (p : List Byte) (i : Nat) : Byte := p.getD i (Config.storageBeyond i)

/-- `sbit(p, k)`: stream bit `k`, bytes in order, the least significant bit of a byte first (00_scope.md R9). -/
def sbit (p : List Byte) (k : Nat) : Bool := (byteAt p (k / 8)).getLsbD (k % 8)

/-- `read_bits(p, s, w)`: `w` stream bits from offset `s`, the first the least significant (00_scope.md R9, 43_decoder.md R133). -/
def readBits (p : List Byte) (s w : Nat) : Nat :=
  ((List.range w).map fun j => (sbit p (s + j)).toNat <<< j).sum

/-! ## The fields of a candidate (20_memory.md R48, 42_validator.md R121) -/

/-- `L = C[0]`. -/
def declaredLength (c : List Byte) : Byte := byteAt c 0

/-- `T = C[1]`. -/
def frameType (c : List Byte) : Byte := byteAt c 1

/-- `C[2 .. len(C)-1)`. -/
def rawPayload (c : List Byte) : List Byte := (c.drop 2).take (c.length - 3)

/-- `C[len(C)-1]`. -/
def checksumByte (c : List Byte) : Byte := byteAt c (c.length - 1)

/-! ## The payload (41_unstuffer.md) -/

/-- Position `i` of the original sequence holds an escape (41_unstuffer.md R110, the set `E`). -/
def escapeAt (r : List Byte) (i : Nat) : Bool := r[i]? == some Config.esc

/-- The byte at position `i` with the XOR of the escape before it, if there is one (R110). -/
def unescapedAt (r : List Byte) (i : Nat) : Byte :=
  if 1 ≤ i ∧ escapeAt r (i - 1) then byteAt r i ^^^ Config.escXor else byteAt r i

/-- UNSTUFF, positional form: escape positions are those of the original sequence; they are removed and the bytes after
them XORed (R110). -/
def unstuff (r : List Byte) : List Byte :=
  ((List.range r.length).filter fun i => !escapeAt r i).map (unescapedAt r)

/-- UNSTUFF, serial form, from a given value of `esc` (R111). -/
def unstuffSerial (esc : Bool) : List Byte → List Byte
  | [] => []
  | b :: rest =>
    if b = Config.esc then unstuffSerial true rest
    else (b ^^^ if esc then Config.escXor else 0x00#8) :: unstuffSerial false rest

/-- `U = unstuff(C[2 .. len(C)-1))` (R113). -/
def payload (c : List Byte) : List Byte := unstuff (rawPayload c)

/-! ## Control payload (30_encoding.md R66, R67; 43_decoder.md R135) -/

/-- `axes[i] = read_bits(U, 11*i, 11)`. -/
def axis (u : List Byte) (i : Nat) : BitVec 11 := BitVec.ofNat 11 (readBits u (Config.axisW * i) Config.axisW)

/-- Every field of a Control payload in stream order, the discarded ones with the others (43_decoder.md R135). -/
structure ControlFields where
  axes : Vector (BitVec 11) 16
  switches : Vector Bool 2
  pad : BitVec 4
  flags : Vector Bool 4
deriving DecidableEq, Repr

/-- Unpack the payload at the offsets of 00_scope.md R7. -/
def unpackControl (p : Config.Params) (u : List Byte) : ControlFields where
  axes := Vector.ofFn fun i : Fin 16 => axis u i
  switches := Vector.ofFn fun k : Fin 2 => sbit u (p.ctrlSwBit + k)
  pad := BitVec.ofNat 4 (readBits u p.ctrlPadBit 4)
  flags := Vector.ofFn fun k : Fin 4 => sbit u (p.ctrlFlagBit + k)

/-- `ev_switches`: the packed value is `switches[0] | switches[1] << 1` (30_encoding.md R81). -/
def packSwitches (sw : Vector Bool 2) : BitVec 2 := BitVec.ofNat 2 (sw[0].toNat ||| sw[1].toNat <<< 1)

/-- The Message of the unpacked fields: `frameLost = flags[2]`, `failsafe = flags[3]`; pad, `flags[0]` and `flags[1]` have no
effect (30_encoding.md R66, R68). -/
def ControlFields.message (f : ControlFields) : ControlMsg where
  axes := f.axes
  switches := packSwitches f.switches
  frameLost := f.flags[2]
  failsafe := f.flags[3]

/-- CONTROL on a payload (43_decoder.md R134, R135). -/
def controlEvent (p : Config.Params) (u : List Byte) : Event :=
  if u.length < p.ctrlMinBytes then .err .shortPayload else .control (unpackControl p u).message

/-! ## Downlink payload (30_encoding.md R72, R73; 43_decoder.md R141) -/

/-- `zext_16(lo) | (zext_16(hi) << 8)` (20_memory.md R41). -/
def littleEndian16 (lo hi : Byte) : BitVec 16 := lo.setWidth 16 ||| (hi.setWidth 16 <<< 8)

/-- The fields of a Downlink payload. -/
def downlinkFields (u : List Byte) : DownlinkMsg where
  primitiveId := byteAt u 0
  appId := littleEndian16 (byteAt u 1) (byteAt u 2)
  data := Vector.ofFn fun j : Fin 4 => byteAt u (3 + j)

/-- DOWNLINK on a payload (43_decoder.md R140, R141). -/
def downlinkEvent (u : List Byte) : Event :=
  if u.length < Config.dlMinBytes then .err .shortPayload else .downlink (downlinkFields u)

end Sys2Proof.Machine
end

