-- ==== Sys2Proof/Machine/Flags.lean ====
section
/-! DEFINITION. The one-bit conditions that the block computes: the two checks of the validator and the checksum arithmetic
(spec/42_validator.md). The block has no condition codes (spec/10_state.md R28). -/

namespace Sys2Proof.Machine

/-- CHKLEN (42_validator.md R122): a comparison on natural numbers. -/
def chklenPasses (c : List Byte) : Bool :=
  decide (Config.minCand ≤ c.length) && declaredLength c != 0x00#8 &&
    decide ((declaredLength c).toNat ≤ c.length - 2)

/-- `S = sum(C)`, a natural number, no wrap (R123). -/
def checksumSum (c : List Byte) : Nat := (c.map BitVec.toNat).sum

/-- CHKSUM (R123): `S mod 255 = 0`. -/
def chksumPasses (c : List Byte) : Bool := checksumSum c % Config.ckMod == 0

/-- One end-around-carry addition (R124): `t = a + c`, then `(t & 0xFF) + (t >> 8)`. -/
def carryAdd (a c : Byte) : Byte := BitVec.ofNat 8 ((a.toNat + c.toNat) % 256 + (a.toNat + c.toNat) / 256)

/-- The 8-bit accumulator over a sequence, from 0 (R124). -/
def carrySum (c : List Byte) : Byte := c.foldl carryAdd 0x00#8

/-- CHKSUM by the accumulator: `a = 0x00 or a = 0xFF` (R124). -/
def carryPasses (c : List Byte) : Bool := carrySum c == 0x00#8 || carrySum c == 0xFF#8

end Sys2Proof.Machine
end

