-- ==== Sys2Proof/Machine/Resolve.lean ====
section
/-! DEFINITION. RESOLVE: one candidate to one event, a pure function (spec/44_pipeline.md R152), with `validate`
(spec/42_validator.md R120) and `decode` of a frame (spec/43_decoder.md R130, R131). -/

namespace Sys2Proof.Machine

/-- `validate`: CHKLEN, then CHKSUM only if CHKLEN passed; `none` is `Ok` (42_validator.md R120, R127). -/
def validate (c : List Byte) : Option ErrorKind :=
  if !chklenPasses c then some .lengthMismatch
  else if !chksumPasses c then some .checksumMismatch
  else none

/-- `decode(T, U)` (43_decoder.md R131). -/
def decodeMessage (p : Config.Params) (t : Byte) (u : List Byte) : Event :=
  if t = Config.typeControl then controlEvent p u
  else if t = Config.typeDownlink then downlinkEvent u
  else .err .unknownFrameType

/-- `resolve(C)` (44_pipeline.md R152). -/
def resolve (p : Config.Params) (c : List Byte) : Event :=
  match validate c with
  | some k => .err k
  | none => decodeMessage p (frameType c) (payload c)

end Sys2Proof.Machine
end

