-- ==== Sys2Proof/Machine/Assembler.lean ====
section
/-! DEFINITION. The FrameAssembler's operations: SYNC, DROP, PUSH, RESTART, CLOSE, OVERFLOW (spec/40_assembler.md R91 to R96).
Each does what its rule says; which of them a byte selects is the decoder's table (R90; log entry 10). -/

namespace Sys2Proof.Machine

/-- SYNC (R91). -/
def sync (s : State) : State := { s with st := .opened, buf := Memory.clear }

/-- PUSH (R93). -/
def push (b : Byte) (s : State) : State := { s with buf := s.buf.append b }

/-- RESTART (R94). -/
def restart (s : State) : State := { s with buf := Memory.clear, st := .opened }

/-- CLOSE (R95): the buffer is cleared, `st` set, and the candidate's one event emitted. -/
def close (s : State) : State := s.endFrame.deliver (resolve s.params s.buf.bytes)

/-- Overflow (R96). -/
def markOverflow (s : State) : State := { s with fault := .overflow }

/-- SYNC (R91). -/
def execSync (s : State) : Host.Outcome State Fault Refusal := .next (s.unlessFaulted sync)

/-- DROP (R92): the state is unchanged, whatever the byte. -/
def execDrop (_b : Byte) (s : State) : Host.Outcome State Fault Refusal := .next s

/-- RESTART (R94). -/
def execRestart (s : State) : Host.Outcome State Fault Refusal := .next (s.unlessFaulted restart)

/-- CLOSE (R95). -/
def execClose (s : State) : Host.Outcome State Fault Refusal := .next (s.unlessFaulted close)

/-- PUSH (R93). -/
def execPush (b : Byte) (s : State) : Host.Outcome State Fault Refusal := .next (s.unlessFaulted (push b))

/-- OVERFLOW (R96): the byte is not stored. -/
def execOverflow (_b : Byte) (s : State) : Host.Outcome State Fault Refusal := .next (s.unlessFaulted markOverflow)

end Sys2Proof.Machine
end

