-- ==== Sys2Proof/Machine/Unstuffer.lean ====
section
/-! DEFINITION. The ByteUnstuffer's operations on one raw payload byte, the serial form (spec/41_unstuffer.md R111). The fetch
has taken the byte out of `tr.raw`. -/

namespace Sys2Proof.Machine

/-- An escape: it is dropped, nothing is output (R111). -/
def markEscape (s : State) : State := { s with tr := { s.tr with esc := true } }

/-- Any other byte: it is output, XORed if marked, and the mark cleared (R111). -/
def outputRaw (b : Byte) (s : State) : State :=
  { s with tr := { s.tr with out := s.tr.out ++ [b ^^^ if s.tr.esc then Config.escXor else 0x00#8], esc := false } }

/-- UNSTUFF.ESC (R110, R111). -/
def execUnstuffEsc (s : State) : Host.Outcome State Fault Refusal := .next (s.unlessFaulted markEscape)

/-- UNSTUFF.PLAIN (R110, R111). -/
def execUnstuffPlain (b : Byte) (s : State) : Host.Outcome State Fault Refusal :=
  .next (s.unlessFaulted (outputRaw b))

end Sys2Proof.Machine
end

