-- ==== Sys2Proof/Machine/Validator.lean ====
section
/-! DEFINITION. The FrameValidator's operations on the candidate of the resolution in progress (spec/42_validator.md R120,
R122, R123). -/

namespace Sys2Proof.Machine

/-- CHKLEN passed: CHKSUM comes next (R120). -/
def awaitChecksum (s : State) : State := { s with tr := { s.tr with phase := .checkSum } }

/-- Both checks passed: the raw payload goes to the unstuffer, whose flag starts at 0 (41_unstuffer.md R111, R113). -/
def startUnstuff (s : State) : State :=
  { s with tr := { s.tr with phase := .payload, raw := rawPayload s.tr.cand, esc := false, out := [] } }

/-- CHKLEN (R122). -/
def checkLength (s : State) : State :=
  if chklenPasses s.tr.cand then awaitChecksum s else s.raiseError .lengthMismatch

/-- CHKSUM (R123). -/
def checkSum (s : State) : State :=
  if chksumPasses s.tr.cand then startUnstuff s else s.raiseError .checksumMismatch

/-- CHKLEN (R122). -/
def execChklen (s : State) : Host.Outcome State Fault Refusal := .next (s.unlessFaulted checkLength)

/-- CHKSUM (R123). -/
def execChksum (s : State) : Host.Outcome State Fault Refusal := .next (s.unlessFaulted checkSum)

end Sys2Proof.Machine
end

