-- ==== Sys2Proof/Machine/Decoder.lean ====
section
/-! DEFINITION. The MessageDecoder's operations on the payload of the resolution in progress (spec/43_decoder.md R134, R135,
R140 to R142). -/

namespace Sys2Proof.Machine

/-- CONTROL (R134, R135). -/
def execControl (s : State) : Host.Outcome State Fault Refusal :=
  .next (s.unlessFaulted fun s => s.finish (controlEvent s.params s.tr.out))

/-- DOWNLINK (R140, R141). -/
def execDownlink (s : State) : Host.Outcome State Fault Refusal :=
  .next (s.unlessFaulted fun s => s.finish (downlinkEvent s.tr.out))

/-- UNKNOWN (R142): the error is the operation's whole effect; the payload is not examined. -/
def execUnknown (_t : Byte) (s : State) : Host.Outcome State Fault Refusal :=
  .next (s.unlessFaulted fun s => s.raiseError .unknownFrameType)

end Sys2Proof.Machine
end

