-- ==== Sys2Proof/Machine/Pipeline.lean ====
section
/-! DEFINITION. STEP, FEED and RESET (spec/44_pipeline.md R151, R153, R156). -/

namespace Sys2Proof.Machine

/-- The operation that an input byte selects, performed: the decision table of 40_assembler.md R90. A buffer longer than
`CAP`, which no run reaches, counts as full (log entry 9). -/
def performByte (b : Byte) (s : State) : State :=
  match s.st with
  | .hunt => if b = Config.delim then sync s else s
  | .opened =>
    if b = Config.delim then (if s.buf.size < Config.minCand then restart s else close s)
    else if hasRoom s.params.cap s.buf.size then push b s else markOverflow s

/-- STEP (R151): consume one byte. In a faulted state nothing changes. -/
def stepByte (s : State) (b : Byte) : State := s.unlessFaulted (performByte b)

/-- FEED's function (R153): the steps of the chunk's bytes, in order. The machine goes through it one byte a step
(`execFeed`); statements say that it ends here. -/
def feedBytes (s : State) : List Byte → State
  | [] => s
  | b :: rest => feedBytes (stepByte s b) rest

/-- RESET (R156): the reset state of the block, from any state; a resolution in progress is lost with the rest. What the
host presents, what the sink has and the parameters are not the block's state. -/
def resetBlock (s : State) : State := { s with st := .hunt, buf := Memory.clear, fault := .none, tr := .none }

/-- FEED (R153): the step of the chunk's first byte; the rest of the chunk comes next at the port. So the sink sees the
events one at a time and a state stands between two bytes of one chunk, since only the step of a byte is atomic
(20_memory.md R46; log entry 17). The empty chunk changes nothing. -/
def execFeed (chunk : List Byte) (s : State) : Host.Outcome State Fault Refusal :=
  match chunk with
  | [] => .next s
  | b :: rest => .next { stepByte s b with port := pendFeed rest s.port }

/-- RESET (R156). -/
def execReset (s : State) : Host.Outcome State Fault Refusal := .next (resetBlock s)

end Sys2Proof.Machine
end

