-- ==== Sys2Proof/Machine/Dispatch.lean ====
section
/-! DEFINITION. The meaning of every operation, one arm per row of spec/opcode_table.json. -/

namespace Sys2Proof.Machine

def exec (i : Instr) (s : State) : Host.Outcome State Fault Refusal :=
  match i with
  | .sync => Sys2Proof.Machine.execSync s
  | .drop b => Sys2Proof.Machine.execDrop b s
  | .restart => Sys2Proof.Machine.execRestart s
  | .close => Sys2Proof.Machine.execClose s
  | .push b => Sys2Proof.Machine.execPush b s
  | .overflow b => Sys2Proof.Machine.execOverflow b s
  | .unstuffEsc => Sys2Proof.Machine.execUnstuffEsc s
  | .unstuffPlain b => Sys2Proof.Machine.execUnstuffPlain b s
  | .chklen => Sys2Proof.Machine.execChklen s
  | .chksum => Sys2Proof.Machine.execChksum s
  | .control => Sys2Proof.Machine.execControl s
  | .downlink => Sys2Proof.Machine.execDownlink s
  | .unknown t => Sys2Proof.Machine.execUnknown t s
  | .feed chunk => Sys2Proof.Machine.execFeed chunk s
  | .reset => Sys2Proof.Machine.execReset s

end Sys2Proof.Machine
end

