-- ==== Sys2Proof/Machine/Fetch.lean ====
section
/-! DEFINITION. What the machine acts on next: the level and the bytes that select its operation (spec/30_encoding.md R79),
and how a table word is placed there. -/

namespace Sys2Proof.Machine

/-- What comes next. -/
inductive Fetched where
  /-- Nothing is presented, or nothing applies: no operation is performed. -/
  | nothing
  /-- The bytes `bytes`, to be decoded at a level. -/
  | key (level : Level) (bytes : List Byte)
deriving DecidableEq, Repr

/-- Whether a request asserts `rst`. -/
def Request.isReset : Request → Bool
  | .drive rst _ => rst
  | .feed _ => false

/-- What a request selects. In a faulted state a byte selects no operation (40_assembler.md R90, R96); a chunk is then
consumed byte by byte to no effect. -/
def Request.key (s : State) : Request → Fetched
  | .drive true _ => .key (.host true) []
  | .drive false (some b) => if s.fault = .none then .key (.byte s.st s.buf.size s.params.cap) [b] else .nothing
  | .drive false none => .nothing
  | .feed chunk => .key (.host false) chunk

/-- The next operation's key in the resolution in progress (44_pipeline.md R152), the raw payload byte taken out. -/
def fetchResolution (s : State) : Fetched × State :=
  match s.tr.phase with
  | .idle => (.nothing, s)
  | .checkLength => (.key (.validator false) [], s)
  | .checkSum => (.key (.validator true) [], s)
  | .payload =>
    match s.tr.raw with
    | b :: rest => (.key .unstuffer [b], { s with tr := { s.tr with raw := rest } })
    | [] => (.key .frame ((s.tr.cand.drop 1).take 1), s)

/-- What the machine acts on next, and the state with that taken. A reset request wins (44_pipeline.md R156: a byte in the
same transaction is not consumed); a resolution in progress goes on before the next request, unless the state is faulted,
where nothing but a reset has an effect (40_assembler.md R96); with no request nothing happens (44_pipeline.md R150,
R155). -/
def fetch (s : State) : Fetched × State :=
  match s.port with
  | [] => if s.fault = .none then fetchResolution s else (.nothing, s)
  | r :: rest =>
    if r.isReset ∨ s.fault ≠ .none ∨ s.tr.phase = .idle then (r.key s, { s with port := rest })
    else fetchResolution s

/-- Run what was fetched. -/
def runFetched : Fetched × State → Host.Outcome State Fault Refusal
  | (.nothing, s) => .next s
  | (.key level bytes, s) =>
    match decode level bytes with
    | .ok (i, _) => exec i s
    | .error e => .refused (.undecodable e)

/-- `s` with the bytes of a table word where the next step fetches them, at the level `tableLevel` gives them (log entry
11): an input byte is presented to a block in HUNT, a raw payload byte and a type byte stand in a resolution, and a word
of no bits is an empty FEED. -/
def placeBytes (bytes : List Byte) (s : State) : State :=
  match tableLevel bytes with
  | .byte _ _ _ =>
    { s with st := .hunt, fault := .none, tr := .none, port := bytes.map (fun b => .drive false (some b)) ++ s.port }
  | .unstuffer =>
    { s with
      fault := .none
      tr := { phase := .payload, cand := [], raw := bytes, esc := false, out := [] }
      port := s.port.dropWhile Request.isReset }
  | .frame =>
    { s with
      fault := .none
      tr := { phase := .payload, cand := 0x00#8 :: bytes, raw := [], esc := false, out := [] }
      port := s.port.dropWhile Request.isReset }
  | .host _ | .validator _ => { s with fault := .none, tr := .none, port := .feed bytes :: s.port }

end Sys2Proof.Machine
end

