-- ==== Sys2Proof/Machine/Step.lean ====
section
/-! DEFINITION. The machine's step, and how the host places a word of the opcode table. -/

namespace Sys2Proof.Machine

/-- One step: fetch the key of the next operation, decode it, perform the operation. A byte, and with it the whole
resolution of the frame it may close, is one step, whether the host presents it alone or in a chunk (spec/20_memory.md R46,
spec/44_pipeline.md R151, R153). -/
def step (s : State) : Host.Outcome State Fault Refusal := runFetched (fetch s)

/-- `s` with a table word stored where `step` fetches its next operation (log entry 11). -/
def State.withFetchWord (s : State) (nbits w : Nat) : State := placeBytes (wordBytes ((nbits + 7) / 8) w) s

end Sys2Proof.Machine
end

