-- ==== Sys2Proof/Machine/Candidates.lean ====
section
/-! DEFINITION. Which candidates a byte stream holds, read off the whole stream (spec/40_assembler.md R98, R99;
spec/44_pipeline.md R158). The machine does not use this: statements compare the machine with it. -/

namespace Sys2Proof.Machine

/-- The runs of non-delimiter bytes of a stream, cut at every delimiter; the first and the last lack a delimiter on one
side (40_assembler.md R98). -/
def runs : List Byte → List (List Byte)
  | [] => [[]]
  | b :: rest =>
    if b = Config.delim then [] :: runs rest
    else match runs rest with
      | [] => [[b]]
      | r :: rs => (b :: r) :: rs

/-- The runs with a delimiter on both sides. -/
def innerRuns (stream : List Byte) : List (List Byte) := (runs stream).tail.dropLast

/-- With `TERMINATOR_REOPENS = false`: a run of three or more bytes is a candidate, and the run after a candidate is lost,
since its opening delimiter closed the candidate (40_assembler.md R95, R99). -/
def candidatesClosing : List (List Byte) → List (List Byte)
  | [] => []
  | [r] => if Config.minCand ≤ r.length then [r] else []
  | r :: next :: rest =>
    if Config.minCand ≤ r.length then r :: candidatesClosing rest else candidatesClosing (next :: rest)

/-- The candidates of a stream that starts at the reset state (40_assembler.md R98). With `TERMINATOR_REOPENS = true` every
inner run of three or more bytes is one. -/
def candidates (p : Config.Params) (stream : List Byte) : List (List Byte) :=
  if p.terminatorReopens then (innerRuns stream).filter (fun r => Config.minCand ≤ r.length)
  else candidatesClosing (innerRuns stream)

end Sys2Proof.Machine
end

