-- ==== Sys2Proof/Machine/Harness.lean ====
section
/-! DEFINITION. The harness's pseudo-operations `stuff` and `mkframe` (spec/30_encoding.md R84): a sender whose frames the
receiver's rules accept. Neither is part of the block. -/

namespace Sys2Proof.Machine

/-- A byte as `stuff` sends it (30_encoding.md R84). -/
def stuffByte (b : Byte) : List Byte :=
  if b = Config.delim ∨ b = Config.esc then [Config.esc, b ^^^ Config.escXor] else [b]

/-- `stuff(P)` (30_encoding.md R84). -/
def stuff (payload : List Byte) : List Byte := payload.flatMap stuffByte

/-- `body = [len(P) + 1, T] ++ stuff(P)` (30_encoding.md R84). -/
def frameBody (t : Byte) (payload : List Byte) : List Byte :=
  BitVec.ofNat 8 (payload.length + 1) :: t :: stuff payload

/-- `ck = (255 - (sum(body) mod 255)) mod 255` (30_encoding.md R84). -/
def checksumFor (body : List Byte) : Byte :=
  BitVec.ofNat 8 ((Config.ckMod - checksumSum body % Config.ckMod) % Config.ckMod)

/-- The bytes between the delimiters of `mkframe(T, P)`. -/
def frameInterior (t : Byte) (payload : List Byte) : List Byte :=
  frameBody t payload ++ [checksumFor (frameBody t payload)]

/-- `mkframe(T, P)`, where it is defined (30_encoding.md R84). -/
def mkframe (t : Byte) (payload : List Byte) : Option (List Byte) :=
  if payload.length ≤ 254 ∧ checksumFor (frameBody t payload) ≠ Config.esc ∧
      checksumFor (frameBody t payload) ≠ Config.delim then
    some (Config.delim :: frameInterior t payload ++ [Config.delim])
  else none

end Sys2Proof.Machine
end

