-- ==== Sys2Proof/Machine/Signals.lean ====
section
/-! DEFINITION. The signal-level rendering of the state bit and of the event output (spec/10_state.md R21,
spec/30_encoding.md R80 to R83, spec/44_pipeline.md R150). -/

namespace Sys2Proof.Machine

/-- The encoding of `st` in one bit: `HUNT` = 0, `OPEN` = 1 (10_state.md R21). -/
def stBit : SyncState → BitVec 1
  | .hunt => 0#1
  | .opened => 1#1

/-- `ev_kind` of an error (60_exceptions.md R160). -/
def ErrorKind.code : ErrorKind → BitVec 3
  | .lengthMismatch => 2#3
  | .checksumMismatch => 3#3
  | .unknownFrameType => 4#3
  | .shortPayload => 5#3

/-- `ev_kind` (30_encoding.md R80). -/
def Event.kind : Event → BitVec 3
  | .control _ => 0#3
  | .downlink _ => 1#3
  | .err k => k.code

/-- The output lines of 44_pipeline.md R150 in one step. A line that carries no meaning in a step has no value
(30_encoding.md R83 and 10_state.md R31 leave it unspecified; log entry 14). -/
structure OutputPort where
  evValid : Bool
  evKind : Option (BitVec 3)
  evAxes : Option (Vector (BitVec 11) 16)
  evSwitches : Option (BitVec 2)
  evFrameLost : Option Bool
  evFailsafe : Option Bool
  evPrim : Option Byte
  evAppId : Option (BitVec 16)
  evData : Option (Vector Byte 4)
deriving DecidableEq, Repr

/-- The lines while no event is emitted. -/
def OutputPort.quiet : OutputPort := ⟨false, none, none, none, none, none, none, none, none⟩

/-- The lines of a step's event output. -/
def outputPort : Option Event → OutputPort
  | none => .quiet
  | some (.control m) =>
    { OutputPort.quiet with
      evValid := true
      evKind := some (Event.control m).kind
      evAxes := some m.axes
      evSwitches := some m.switches
      evFrameLost := some m.frameLost
      evFailsafe := some m.failsafe }
  | some (.downlink m) =>
    { OutputPort.quiet with
      evValid := true
      evKind := some (Event.downlink m).kind
      evPrim := some m.primitiveId
      evAppId := some m.appId
      evData := some m.data }
  | some (.err k) => { OutputPort.quiet with evValid := true, evKind := some k.code }

/-- The event that STEP emits for a byte: one exactly when the operation is CLOSE (44_pipeline.md R151). -/
def stepEvent (s : State) (b : Byte) : Option Event :=
  if s.fault = .none ∧ s.st = .opened ∧ b = Config.delim ∧ Config.minCand ≤ s.buf.size then
    some (resolve s.params s.buf.bytes)
  else none

end Sys2Proof.Machine
end

