-- ==== Sys2Proof/Machine/Streaming.lean ====
section
/-! DEFINITION. The streaming form of RESOLVE (spec/70_reset_and_hazards.md R197), an implementer's form that keeps no
buffer of raw bytes. The normative form is `resolve`; a statement says that they agree. -/

namespace Sys2Proof.Machine

/-- What the streaming form keeps while bytes are pushed (70_reset_and_hazards.md R197). -/
structure StreamRegs where
  /-- `n = len(buf)`. -/
  count : Nat
  /-- The first byte, once there is one. -/
  length : Byte
  /-- The second byte, once there is one. -/
  type : Byte
  /-- The end-around-carry sum. -/
  acc : Byte
  /-- The last byte from index 2 on, kept from the unstuffer: it may be the checksum. -/
  held : Option Byte
  /-- The unstuffer's flag. -/
  esc : Bool
  /-- The first bytes of `U`. -/
  out : List Byte
deriving DecidableEq, Repr

/-- Before the first byte. `length` and `type` are read only after three bytes. -/
def StreamRegs.start : StreamRegs := ⟨0, 0x00#8, 0x00#8, 0x00#8, none, false, []⟩

/-- How many bytes of `U` a decoder can need (R197: "only `min(len(U), 24)` bytes of `U`" with the defaults). -/
def streamKeep (p : Config.Params) : Nat := max p.ctrlMinBytes Config.dlMinBytes

/-- One raw payload byte through the unstuffer; `U` is kept up to `streamKeep`. -/
def StreamRegs.unstuffByte (p : Config.Params) (g : StreamRegs) (b : Byte) : StreamRegs :=
  if b = Config.esc then { g with esc := true }
  else if g.out.length < streamKeep p then
    { g with out := g.out ++ [b ^^^ if g.esc then Config.escXor else 0x00#8], esc := false }
  else { g with esc := false }

/-- One byte pushed. -/
def StreamRegs.push (p : Config.Params) (g : StreamRegs) (b : Byte) : StreamRegs :=
  match g.count with
  | 0 => { g with count := 1, length := b, acc := carryAdd g.acc b }
  | 1 => { g with count := 2, type := b, acc := carryAdd g.acc b }
  | n + 2 =>
    let g' := match g.held with
      | none => g
      | some h => g.unstuffByte p h
    { g' with count := n + 3, acc := carryAdd g.acc b, held := some b }

/-- The event at the closing delimiter. -/
def StreamRegs.finish (p : Config.Params) (g : StreamRegs) : Event :=
  if g.count < Config.minCand ∨ g.length = 0x00#8 ∨ g.count - 2 < g.length.toNat then .err .lengthMismatch
  else if g.acc ≠ 0x00#8 ∧ g.acc ≠ 0xFF#8 then .err .checksumMismatch
  else decodeMessage p g.type g.out

/-- RESOLVE in streaming form (70_reset_and_hazards.md R197). -/
def streamResolve (p : Config.Params) (c : List Byte) : Event :=
  (c.foldl (StreamRegs.push p) StreamRegs.start).finish p

end Sys2Proof.Machine
end

