-- ==== Sys2Proof/Safety.lean ====
section
/-! DEFINITION. What a good state of the block is, in the terms that statements use (spec/10_state.md R22, R23). -/

namespace Sys2Proof.Machine

/-- The invariants of 10_state.md R22 and R23: the buffer is in its canonical form, holds no delimiter, is empty while no
frame is open and never outgrows `CAP`; an overflow needs a finite `CAP`. -/
structure State.Inv (s : State) : Prop where
  canonical : s.buf.wf
  noDelimiter : Config.delim ∉ s.buf.bytes
  huntEmpty : s.st = .hunt → s.buf = []
  fits : ∀ c ∈ s.params.cap, s.buf.size ≤ c
  overflowNeedsCap : s.params.cap = none → s.fault = .none

/-- No resolution is in progress, and nothing of one is retained (10_state.md R27). -/
def State.Settled (s : State) : Prop := s.tr = .none

/-- The block after the bytes of a chunk, presented before everything else at its port, are consumed, one step each
(44_pipeline.md R153, 20_memory.md R46). -/
def State.fed (s : State) (chunk : List Byte) : Host.Outcome State Fault Refusal :=
  core.run chunk.length { s with port := pendFeed chunk s.port }

/-- The step ends in a next state. -/
def Progresses (s : State) : Prop := ∃ t, step s = .next t

end Sys2Proof.Machine
end

