-- ==== Sys2Proof/Certificates/Slice0/Obligations.lean ====
section
/-! DEFINITION. The statements for the provers. Each docstring names the rule or the passage of spec/ that it formalises, and
says where the behaviour is a decision or an inference that spec/ marks as its own. -/

open Sys2Proof Sys2Proof.Machine

/-! ## Keys, decoding, encoding -/

/-- One key of each family, written out from spec/opcode_table.json, decodes to its operation. -/
def Obligations.TableKeysDecode : Prop :=
  decode (.byte .hunt 0 none) [0b01111110#8] = .ok (.sync, []) ∧
  decode (.byte .hunt 0 none) [0b01111101#8] = .ok (.drop 0x7D#8, []) ∧
  decode (.byte .opened 2 none) [0b01111110#8] = .ok (.restart, []) ∧
  decode (.byte .opened 3 none) [0b01111110#8] = .ok (.close, []) ∧
  decode (.byte .opened 3 (some 4)) [0b00000001#8] = .ok (.push 0x01#8, []) ∧
  decode (.byte .opened 4 (some 4)) [0b00000001#8] = .ok (.overflow 0x01#8, []) ∧
  decode .unstuffer [0b01111101#8] = .ok (.unstuffEsc, []) ∧
  decode .unstuffer [0b01011110#8] = .ok (.unstuffPlain 0x5E#8, []) ∧
  decode .frame [0b00000000#8] = .ok (.control, []) ∧
  decode .frame [0b00000001#8] = .ok (.downlink, []) ∧
  decode .frame [0b01111101#8] = .ok (.unknown 0x7D#8, [])

/-- Decoding an encoded operation gives it back, with every operand at every value its row admits, at every level that
offers the row, and leaves the bytes after it (FEED's chunk is every byte there is). -/
def Obligations.DecodeOfEncode : Prop :=
  ∀ (i : Instr) (level : Level) (rest : List Byte), i.wf = true → i.offeredAt level = true →
    (∀ chunk, i = .feed chunk → rest = []) → decode level (encode i ++ rest) = .ok (i, rest)

/-- Whatever decodes is the encoding of the well-formed operation it decodes to, of a row that the level offers: no byte
has a second meaning at one level. -/
def Obligations.EncodeOfDecode : Prop :=
  ∀ (level : Level) (bytes : List Byte) (i : Instr) (rest : List Byte), decode level bytes = .ok (i, rest) →
    bytes = encode i ++ rest ∧ i.wf = true ∧ i.offeredAt level = true

/-- 30_encoding.md R79: the row decoded matches the key (`k & mask = match`), and no row of smaller priority among those
the level offers does. -/
def Obligations.DecodeTakesRowsByPriority : Prop :=
  ∀ (level : Level) (k : Byte) (bytes : List Byte) (i : Instr) (rest : List Byte),
    decode level (k :: bytes) = .ok (i, rest) →
    k &&& i.row.mask = i.row.pattern ∧
      ∀ j : Instr, j.wf = true → j.offeredAt level = true → j.row.covers k = true → i.row.priority ≤ j.row.priority

/-- A step runs the operation that is decoded, in the state with the request or the raw byte taken: a reset always
(44_pipeline.md R156), an input byte (R151) and a chunk (R153) while no resolution is in progress, a chunk in a faulted
state too. Two things are the model's choice: that a transaction with rst leaves the port whole, with its byte, and ends a
resolution in progress (log entry 18), and that a step from a state with a resolution in progress runs one operation of it (log
entry 4: spec/ knows no such state between two steps, 20_memory.md R46, 44_pipeline.md R151). -/
def Obligations.StepRunsTheDecodedOperation : Prop :=
  ∀ (s : State) (i : Instr),
    (∀ b p, s.port = .drive true b :: p →
      decode (.host true) [] = .ok (i, []) → step s = exec i { s with port := p }) ∧
    (s.fault = .none → s.tr.phase = .idle → ∀ b p, s.port = .drive false (some b) :: p →
      decode (.byte s.st s.buf.size s.params.cap) [b] = .ok (i, []) → step s = exec i { s with port := p }) ∧
    (s.fault ≠ .none ∨ s.tr.phase = .idle → ∀ chunk p, s.port = .feed chunk :: p →
      decode (.host false) chunk = .ok (i, []) → step s = exec i { s with port := p }) ∧
    (s.fault = .none → (∀ r p, s.port = r :: p → r.isReset = false) →
      (s.tr.phase = .checkLength → decode (.validator false) [] = .ok (i, []) → step s = exec i s) ∧
      (s.tr.phase = .checkSum → decode (.validator true) [] = .ok (i, []) → step s = exec i s) ∧
      (∀ b r, s.tr.phase = .payload → s.tr.raw = b :: r → decode .unstuffer [b] = .ok (i, []) →
        step s = exec i { s with tr := { s.tr with raw := r } }) ∧
      (∀ l t c, s.tr.phase = .payload → s.tr.raw = [] → s.tr.cand = l :: t :: c →
        decode .frame [t] = .ok (i, []) → step s = exec i s))

/-- A word of the opcode table placed by `withFetchWord` is what the very next step fetches, decodes and runs, in the very
state that fetching leaves, which is unfaulted and has the parameters, the buffer and the sink as they were (the level at
which a bare word is read is the model's choice, log entry 11). -/
def Obligations.PlacedWordRunsNext : Prop :=
  ∀ (s : State) (nbits w : Nat) (i : Instr), decodeTableWord nbits w = some i →
    (∃ level bytes rest, (fetch (s.withFetchWord nbits w)).1 = .key level bytes ∧
      decode level bytes = .ok (i, rest)) ∧
    step (s.withFetchWord nbits w) = exec i (fetch (s.withFetchWord nbits w)).2 ∧
    (fetch (s.withFetchWord nbits w)).2.params = s.params ∧ (fetch (s.withFetchWord nbits w)).2.buf = s.buf ∧
    (fetch (s.withFetchWord nbits w)).2.sink = s.sink ∧ (fetch (s.withFetchWord nbits w)).2.fault = .none

/-! ## The assembler -/

/-- 40_assembler.md R90: one input byte selects exactly one operation, by this table, which is total for a buffer within
`CAP` and whose rows exclude each other; when `fault != none` none applies. -/
def Obligations.ByteSelectsByDecisionTable : Prop :=
  (∀ (s : State) (b : Byte) (p : List Request), s.tr.phase = .idle → s.port = .drive false (some b) :: p →
    (s.fault ≠ .none → step s = .next { s with port := p }) ∧
    (s.fault = .none →
      (s.st = .hunt → b = 0x7E#8 → step s = exec .sync { s with port := p }) ∧
      (s.st = .hunt → b ≠ 0x7E#8 → step s = exec (.drop b) { s with port := p }) ∧
      (s.st = .opened → b ≠ 0x7E#8 → (∀ c, s.params.cap = some c → s.buf.size < c) →
        step s = exec (.push b) { s with port := p }) ∧
      (s.st = .opened → b ≠ 0x7E#8 → s.params.cap = some s.buf.size →
        step s = exec (.overflow b) { s with port := p }) ∧
      (s.st = .opened → b = 0x7E#8 → s.buf.size ≤ 2 → step s = exec .restart { s with port := p }) ∧
      (s.st = .opened → b = 0x7E#8 → 2 < s.buf.size → step s = exec .close { s with port := p }))) ∧
  (∀ (s : State) (b : Byte), (∀ c, s.params.cap = some c → s.buf.size ≤ c) →
    [decide (s.st = .hunt ∧ b = 0x7E#8), decide (s.st = .hunt ∧ b ≠ 0x7E#8),
     decide (s.st = .opened ∧ b ≠ 0x7E#8 ∧ s.params.cap ≠ some s.buf.size),
     decide (s.st = .opened ∧ b ≠ 0x7E#8 ∧ s.params.cap = some s.buf.size),
     decide (s.st = .opened ∧ b = 0x7E#8 ∧ s.buf.size ≤ 2),
     decide (s.st = .opened ∧ b = 0x7E#8 ∧ 2 < s.buf.size)].count true = 1)

/-- 40_assembler.md R91: SYNC opens a frame with nothing collected (the delimiter is not stored), emits nothing and
changes nothing else; its key is `0x7E` in HUNT. -/
def Obligations.SyncOpensAnEmptyFrame : Prop :=
  (∀ len cap, decode (.byte .hunt len cap) [0x7E#8] = .ok (.sync, [])) ∧
  ∀ s : State, s.fault = .none → exec .sync s = .next { s with st := .opened, buf := [] }

/-- DROP leaves the whole state and emits nothing, for every byte, `0x7D` included (40_assembler.md R92; that the byte is
dropped at once is decision D3 of spec/92_eei_decisions.md). -/
def Obligations.DropLeavesTheState : Prop :=
  ∀ (b : Byte) (s : State), exec (.drop b) s = .next s

/-- 40_assembler.md R93: PUSH appends the byte at index `len(buf)`, whatever its value, emits nothing; every other address
reads as before and nothing but the buffer changes. Its key is any byte but `0x7E` in OPEN with room left. -/
def Obligations.PushAppendsOneByte : Prop :=
  (∀ len cap b, b ≠ 0x7E#8 → (∀ c, cap = some c → len < c) →
    decode (.byte .opened len cap) [b] = .ok (.push b, [])) ∧
  ∀ (b : Byte) (s : State), s.fault = .none →
    ∃ t, exec (.push b) s = .next t ∧ t.buf.bytes = s.buf.bytes ++ [b] ∧ t.buf.size = s.buf.size + 1 ∧
      (∀ a, a ≠ s.buf.size → t.buf.read a = s.buf.read a) ∧ (s.buf.wf → t.buf.read s.buf.size = some b) ∧
      t = { s with buf := t.buf }

/-- 40_assembler.md R94: RESTART discards the 0, 1 or 2 bytes collected, leaves the frame open and emits nothing; its key
is `0x7E` in OPEN with at most two bytes (with three or more that key is CLOSE). -/
def Obligations.RestartDiscardsAndReopens : Prop :=
  (∀ len cap, len ≤ 2 → decode (.byte .opened len cap) [0x7E#8] = .ok (.restart, [])) ∧
  (∀ len cap, 3 ≤ len → decode (.byte .opened len cap) [0x7E#8] = .ok (.close, [])) ∧
  ∀ s : State, s.fault = .none → exec .restart s = .next { s with st := .opened, buf := [] }

/-- CLOSE empties the buffer, sets `st` by `TERMINATOR_REOPENS` and emits the one event of the candidate, good or bad
(40_assembler.md R95; the default of `TERMINATOR_REOPENS` is decision D4). -/
def Obligations.CloseResolvesTheCandidate : Prop :=
  ∀ s : State, s.fault = .none →
    exec .close s = .next { s with
      buf := [], st := if s.params.terminatorReopens then .opened else .hunt,
      sink := s.sink ++ [resolve s.params s.buf.bytes] }

/-- OVERFLOW sets the sticky mark, stores nothing and emits nothing (40_assembler.md R96, decision D5). -/
def Obligations.OverflowOnlyMarksTheBlock : Prop :=
  ∀ (b : Byte) (s : State), s.fault = .none → exec (.overflow b) s = .next { s with fault := .overflow }

/-- Once faulted, every later step leaves the state unchanged and emits nothing, until a reset (40_assembler.md R96,
decision D5): no operation but RESET has an effect, and a step takes at most the transaction that it answers, or the first
byte of the chunk (one byte a step: log entry 17). -/
def Obligations.FaultedBlockIsStuck : Prop :=
  ∀ s : State, s.fault ≠ .none →
    (∀ i : Instr, i ≠ .reset → (∀ chunk, i ≠ .feed chunk) → exec i s = .next s) ∧
    (∀ chunk, exec (.feed chunk) s = .next { s with port := pendFeed chunk.tail s.port }) ∧
    (s.port = [] → step s = .next s) ∧
    (∀ b p, s.port = .drive false b :: p → step s = .next { s with port := p }) ∧
    (∀ chunk p, s.port = .feed chunk :: p → step s = .next { s with port := pendFeed chunk.tail p })

/-- Only the assembler, FEED and RESET touch the assembler's state: every other operation leaves `st`, every byte of the
buffer, `fault`, the parameters and what is presented as they were (10_state.md, "Only the FrameAssembler holds state
between inputs"). -/
def Obligations.OnlyTheAssemblerWritesItsState : Prop :=
  ∀ (i : Instr) (s t : State),
    (match i with
      | .unstuffEsc | .unstuffPlain _ | .chklen | .chksum | .control | .downlink | .unknown _ => True
      | _ => False) →
    exec i s = .next t →
    t.st = s.st ∧ (∀ a, t.buf.read a = s.buf.read a) ∧ t.buf = s.buf ∧ t.fault = s.fault ∧ t.params = s.params ∧
      t.port = s.port

/-! ## The unstuffer -/

/-- The serial form of the unstuffer computes the positional form (41_unstuffer.md R111, which spec/ derives from R110). -/
def Obligations.SerialUnstuffIsPositional : Prop :=
  ∀ r : List Byte, unstuffSerial false r = unstuff r

/-- What the unstuffer outputs (41_unstuffer.md R112 (a), (b), (c), (f), which spec/ derives): one byte per non-escape byte; an escape-free
sequence is unchanged; a byte after an escape is not checked, any byte `x` but an escape gives `x ^ 0x20`; that XOR flips
bit 5 and no other. -/
def Obligations.UnstuffOutputLaws : Prop :=
  (∀ r : List Byte, (unstuff r).length = (r.filter (fun b => b ≠ 0x7D#8)).length) ∧
  (∀ r : List Byte, 0x7D#8 ∉ r → unstuff r = r) ∧
  (∀ (x : Byte) (r : List Byte), x ≠ 0x7D#8 → unstuff (0x7D#8 :: x :: r) = (x ^^^ 0x20#8) :: unstuff r) ∧
  (∀ (x : Byte) (k : Nat), k < 8 → (x ^^^ 0x20#8).getLsbD k = (x.getLsbD k != (k == 5)))

/-- Unstuffing undoes the harness's stuffing for every payload (41_unstuffer.md R112 (e), which spec/ derives; `stuff` is spec/'s harness,
decision D24). -/
def Obligations.UnstuffInvertsStuff : Prop :=
  ∀ payload : List Byte, unstuff (stuff payload) = payload

/-- An escape with nothing after it is dropped and raises nothing; of escapes in a row all are dropped and the byte after
them is XORed once (41_unstuffer.md R114 and R115, decisions D9 and D8). -/
def Obligations.MalformedEscapesAreTolerated : Prop :=
  (∀ r : List Byte, unstuff (r ++ [0x7D#8]) = unstuff r) ∧
  (∀ r : List Byte, unstuff (0x7D#8 :: 0x7D#8 :: r) = unstuff (0x7D#8 :: r)) ∧
  (∀ (x : Byte) (r : List Byte), x ≠ 0x7D#8 →
    unstuff (0x7D#8 :: 0x7D#8 :: x :: r) = (x ^^^ 0x20#8) :: unstuff r)

/-- UNSTUFF.ESC outputs nothing and marks the next byte; UNSTUFF.PLAIN outputs its byte, XORed with `0x20` if marked, and
clears the mark; nothing else changes (41_unstuffer.md R111, which spec/ derives). -/
def Obligations.UnstuffOperationsRun : Prop :=
  ∀ (s : State) (b : Byte), s.fault = .none →
    exec .unstuffEsc s = .next { s with tr := { s.tr with esc := true } } ∧
    exec (.unstuffPlain b) s = .next { s with
      tr := { s.tr with out := s.tr.out ++ [if s.tr.esc then b ^^^ 0x20#8 else b], esc := false } }

/-! ## The validator -/

/-- CHKLEN, for a candidate with first byte `l` and `n` bytes after it: it passes, and CHKSUM comes next, exactly when at
least two bytes follow, `l` is not 0 and `l` does not exceed `len(C) - 2`; otherwise the one event is LengthMismatch. Nothing else
changes (42_validator.md R122; the rejection of `L = 0` is decision D10). -/
def Obligations.ChklenComparesTheDeclaredLength : Prop :=
  ∀ s : State, s.fault = .none →
    (∀ l rest, s.tr.cand = l :: rest →
      exec .chklen s = .next
        (if 2 ≤ rest.length ∧ l ≠ 0x00#8 ∧ l.toNat < rest.length then { s with tr := { s.tr with phase := .checkSum } }
         else { s with tr := .none, sink := s.sink ++ [.err .lengthMismatch] })) ∧
    (s.tr.cand = [] → exec .chklen s = .next { s with tr := .none, sink := s.sink ++ [.err .lengthMismatch] })

/-- CHKSUM passes exactly when the natural-number sum of every byte of the candidate is a multiple of 255; the raw
payload, all but the first two and the last byte, then goes to the unstuffer with its flag at 0; otherwise the one event is
ChecksumMismatch (42_validator.md R123, decision D17; 41_unstuffer.md R113, decision D6). -/
def Obligations.ChksumSumsEveryByte : Prop :=
  ∀ s : State, s.fault = .none →
    exec .chksum s = .next
      (if (s.tr.cand.map BitVec.toNat).sum % 255 = 0 then
        { s with tr := { phase := .payload, cand := s.tr.cand, raw := (s.tr.cand.drop 2).dropLast, esc := false, out := [] } }
       else { s with tr := .none, sink := s.sink ++ [.err .checksumMismatch] })

/-- The end-around-carry accumulator computes the checksum test (42_validator.md R124, which spec/ derives): it is
congruent to the sum modulo 255, the test `0x00 or 0xFF` is the test of R123, and after a passed CHKLEN `0xFF` alone is. -/
def Obligations.CarrySumDecidesTheChecksum : Prop :=
  ∀ c : List Byte,
    (carrySum c).toNat % 255 = (c.map BitVec.toNat).sum % 255 ∧
    (carryPasses c = true ↔ (c.map BitVec.toNat).sum % 255 = 0) ∧
    (chklenPasses c = true → (carrySum c = 0xFF#8 ↔ (c.map BitVec.toNat).sum % 255 = 0))

/-- The checksum cannot see a reordering, nor a `0x00` or `0xFF` put in before the checksum byte; and two different
candidates can decode to one message (70_reset_and_hazards.md R191, which spec/ derives). -/
def Obligations.ChecksumBlindSpots : Prop :=
  (∀ c c' : List Byte, c.Perm c' → chksumPasses c = chksumPasses c') ∧
  (∀ (c : List Byte) (x ck : Byte), x = 0x00#8 ∨ x = 0xFF#8 → chksumPasses (c ++ [x, ck]) = chksumPasses (c ++ [ck])) ∧
  (∃ (c c' : List Byte) (m : DownlinkMsg), c ≠ c' ∧ resolve .default c = .downlink m ∧ resolve .default c' = .downlink m)

/-- Stuffing adds 93 to the sum for every escaped byte, so a checksum over the logical bytes fails unless their number is
a multiple of 85 (42_validator.md R125, which spec/ derives). -/
def Obligations.StuffingShiftsTheSum : Prop :=
  (∀ payload : List Byte,
    checksumSum (stuff payload) = checksumSum payload + 93 * (payload.filter (fun b => b = 0x7E#8 ∨ b = 0x7D#8)).length) ∧
  (∀ k : Nat, 93 * k % 255 = 0 ↔ k % 85 = 0)

/-- Every frame of the harness passes the validator (42_validator.md R127, which spec/ derives). -/
def Obligations.HarnessFramesValidate : Prop :=
  ∀ (t : Byte) (payload : List Byte), payload.length ≤ 254 → validate (frameInterior t payload) = none

/-- The declared length is checked and used for nothing else (decision D11): two candidates that differ only in it and in
the checksum byte, and both pass the validator, resolve alike. -/
def Obligations.DeclaredLengthIsOnlyChecked : Prop :=
  ∀ (p : Config.Params) (l l' t ck ck' : Byte) (r : List Byte),
    validate (l :: t :: (r ++ [ck])) = none → validate (l' :: t :: (r ++ [ck'])) = none →
    resolve p (l :: t :: (r ++ [ck])) = resolve p (l' :: t :: (r ++ [ck']))

/-! ## The decoder -/

/-- Bit `j` of a field of width `w` at offset `s` is stream bit `s + j`: bytes in order, least significant bit first, in the
byte and in the field (00_scope.md R9; that the field too is least significant first is spec/'s reading). A reader that
goes on from a cursor reads the same bits. -/
def Obligations.BitReaderIsLsbFirst : Prop :=
  (∀ (p : List Byte) (s w j : Nat), (readBits p s w).testBit j = (decide (j < w) && sbit p (s + j))) ∧
  (∀ (p : List Byte) (k : Nat) (b : Byte), p[k / 8]? = some b → sbit p k = b.toNat.testBit (k % 8)) ∧
  (∀ (p : List Byte) (s w v : Nat), readBits p s (w + v) = readBits p s w + 2 ^ w * readBits p (s + w) v)

/-- The byte-and-shift form of an axis (20_memory.md R43 and the table of 30_encoding.md R67, which spec/ derives). -/
def Obligations.AxisInByteTerms : Prop :=
  ∀ (u : List Byte) (i : Nat), i < 16 → 22 ≤ u.length →
    (axis u i).toNat =
      (((u.getD (11 * i / 8) 0#8).toNat + (u.getD (11 * i / 8 + 1) 0#8).toNat * 256 +
        (u.getD (11 * i / 8 + 2) 0#8).toNat * 65536) / 2 ^ (11 * i % 8)) % 2048

/-- CONTROL on a payload of at least `CTRL_MIN_BYTES` bytes emits one Control message, every field from its own stream bits
and nothing else changes; on a shorter one, ShortPayload (43_decoder.md R134, R135; the offsets after bit 175 and the
minimum are decisions D12 and D13). -/
def Obligations.ControlDecodesThePayload : Prop :=
  ∀ s : State, s.fault = .none →
    (s.params.ctrlMinBytes ≤ s.tr.out.length →
      ∃ m : ControlMsg, exec .control s = .next { s with tr := .none, sink := s.sink ++ [.control m] } ∧
        (∀ (i : Nat) (h : i < 16), (m.axes[i]'h).toNat = readBits s.tr.out (11 * i) 11) ∧
        (∀ k, k < 2 → m.switches.getLsbD k = sbit s.tr.out (s.params.ctrlSwBit + k)) ∧
        m.frameLost = sbit s.tr.out (s.params.ctrlFlagBit + 2) ∧
        m.failsafe = sbit s.tr.out (s.params.ctrlFlagBit + 3)) ∧
    (s.tr.out.length < s.params.ctrlMinBytes →
      exec .control s = .next { s with tr := .none, sink := s.sink ++ [.err .shortPayload] })

/-- The pad, `flags[0]`, `flags[1]` and every bit after the flags have no effect (30_encoding.md R68; the positions are
decision D12): payloads that agree on the bits of the message's fields give one event. -/
def Obligations.ControlIgnoresReservedBits : Prop :=
  ∀ (p : Config.Params) (u u' : List Byte),
    (u.length < p.ctrlMinBytes ↔ u'.length < p.ctrlMinBytes) →
    (∀ k, k < 176 ∨ k = p.ctrlSwBit ∨ k = p.ctrlSwBit + 1 ∨ k = p.ctrlFlagBit + 2 ∨ k = p.ctrlFlagBit + 3 →
      sbit u k = sbit u' k) →
    controlEvent p u = controlEvent p u'

/-- 43_decoder.md R141: DOWNLINK takes `primitiveId`, the little-endian `appId` and four data bytes from the first seven bytes
and ignores the rest; fewer than seven bytes are ShortPayload; nothing else changes. -/
def Obligations.DownlinkDecodesThePayload : Prop :=
  ∀ s : State, s.fault = .none →
    (∀ prim lo hi d0 d1 d2 d3 rest, s.tr.out = prim :: lo :: hi :: d0 :: d1 :: d2 :: d3 :: rest →
      ∃ m : DownlinkMsg, exec .downlink s = .next { s with tr := .none, sink := s.sink ++ [.downlink m] } ∧
        m.primitiveId = prim ∧ m.appId = hi ++ lo ∧ m.data.toList = [d0, d1, d2, d3]) ∧
    (s.tr.out.length < 7 →
      exec .downlink s = .next { s with tr := .none, sink := s.sink ++ [.err .shortPayload] })

/-- 43_decoder.md R142: the 254 other type bytes select UNKNOWN, whose result is always UnknownFrameType, whatever the
payload; the event implies a candidate that passed both checks. -/
def Obligations.UnknownTypesAreReported : Prop :=
  (∀ (t : Byte) (rest : List Byte), t ≠ 0x00#8 → t ≠ 0x01#8 → decode .frame (t :: rest) = .ok (.unknown t, rest)) ∧
  (∀ (t : Byte) (s : State), s.fault = .none →
    exec (.unknown t) s = .next { s with tr := .none, sink := s.sink ++ [.err .unknownFrameType] }) ∧
  ∀ (p : Config.Params) (c : List Byte), resolve p c = .err .unknownFrameType →
    chklenPasses c = true ∧ chksumPasses c = true

/-- 43_decoder.md R131: dispatch on the whole type byte, before any look at the payload. -/
def Obligations.DispatchOnTheTypeByte : Prop :=
  ∀ (p : Config.Params) (u : List Byte),
    decodeMessage p 0x00#8 u = controlEvent p u ∧ decodeMessage p 0x01#8 u = downlinkEvent u ∧
      ∀ t : Byte, t ≠ 0x00#8 → t ≠ 0x01#8 → decodeMessage p t u = .err .unknownFrameType

/-! ## The pipeline -/

/-- 44_pipeline.md R152: one candidate to one event, in the rule's order; a candidate of three or more bytes is written
`l t r ck`. -/
def Obligations.ResolveInOrder : Prop :=
  (∀ (p : Config.Params) (c : List Byte), c.length < 3 → resolve p c = .err .lengthMismatch) ∧
  ∀ (p : Config.Params) (l t ck : Byte) (r : List Byte),
    resolve p (l :: t :: (r ++ [ck])) =
      if l = 0x00#8 ∨ r.length + 1 < l.toNat then .err .lengthMismatch
      else if (l.toNat + t.toNat + (r.map BitVec.toNat).sum + ck.toNat) % 255 ≠ 0 then .err .checksumMismatch
      else if t = 0x00#8 then
        (if (unstuff r).length < p.ctrlMinBytes then .err .shortPayload
         else .control (unpackControl p (unstuff r)).message)
      else if t = 0x01#8 then
        (if (unstuff r).length < 7 then .err .shortPayload else .downlink (downlinkFields (unstuff r)))
      else .err .unknownFrameType

/-- Exactly when each error is the event (60_exceptions.md R160 and R164; the codes and the total form of CHKLEN are
decisions D14 and D10). -/
def Obligations.ErrorConditions : Prop :=
  ∀ (p : Config.Params) (c : List Byte),
    (resolve p c = .err .lengthMismatch ↔
      c.length < 3 ∨ declaredLength c = 0x00#8 ∨ c.length - 2 < (declaredLength c).toNat) ∧
    (resolve p c = .err .checksumMismatch ↔ chklenPasses c = true ∧ checksumSum c % 255 ≠ 0) ∧
    (resolve p c = .err .unknownFrameType ↔
      validate c = none ∧ frameType c ≠ 0x00#8 ∧ frameType c ≠ 0x01#8) ∧
    (resolve p c = .err .shortPayload ↔
      validate c = none ∧ ((frameType c = 0x00#8 ∧ (payload c).length < p.ctrlMinBytes) ∨
        (frameType c = 0x01#8 ∧ (payload c).length < 7)))

/-- Consuming one byte always completes, changes the state as `stepByte` does, and emits at most one event, one exactly when the
operation is CLOSE (44_pipeline.md R151, 30_encoding.md R80). -/
def Obligations.OneByteAtMostOneEvent : Prop :=
  ∀ (s : State) (b : Byte) (p : List Request), s.tr.phase = .idle → s.port = .drive false (some b) :: p →
    ∃ t, step s = .next t ∧ t = stepByte { s with port := p } b ∧
      t.sink = s.sink ++ (stepEvent s b).toList ∧ t.params = s.params ∧ t.tr = s.tr ∧ t.port = p

/-- 44_pipeline.md R153: FEED is the steps of its bytes in order, from the empty chunk, which changes nothing; the events
come out in the order of the steps. With a chunk presented at the port, one step for each byte of it ends where the rule's
recursion ends, with nothing of the chunk left; presenting the bytes one by one gives the same. -/
def Obligations.FeedIsTheStepsOfItsBytes : Prop :=
  (∀ s : State, exec (.feed []) s = .next s ∧ feedBytes s [] = s) ∧
  (∀ (s : State) (b : Byte) (chunk : List Byte), feedBytes s (b :: chunk) = feedBytes (stepByte s b) chunk) ∧
  (∀ (s : State) (b : Byte), (stepByte s b).sink = s.sink ++ (stepEvent s b).toList) ∧
  ∀ (s : State) (chunk : List Byte), s.tr.phase = .idle →
    s.fed chunk = .next (feedBytes s chunk) ∧
    core.run chunk.length { s with port := chunk.map (fun b => .drive false (some b)) ++ s.port } =
      .next (feedBytes s chunk)

/-- `feed` is not atomic to the sink, which sees the events one at a time in order (20_memory.md R46): FEED is the step of the
chunk's first byte, and after `k` steps the block has consumed exactly `k` bytes of the chunk, the rest stands next at the
port, and the step of the next byte adds that byte's event, or none. That the rest of a chunk stands at the port is the model's
choice, log entry 17. -/
def Obligations.FeedDeliversEventsOneAtATime : Prop :=
  (∀ (s : State) (b : Byte) (chunk : List Byte),
    exec (.feed (b :: chunk)) s = .next { stepByte s b with port := pendFeed chunk s.port }) ∧
  ∀ (s : State) (chunk : List Byte) (k : Nat), s.tr.phase = .idle → k ≤ chunk.length →
    core.run k { s with port := pendFeed chunk s.port } =
      .next { feedBytes s (chunk.take k) with port := pendFeed (chunk.drop k) s.port } ∧
    ∀ (b : Byte), chunk[k]? = some b →
      (feedBytes s (chunk.take (k + 1))).sink =
        (feedBytes s (chunk.take k)).sink ++ (stepEvent (feedBytes s (chunk.take k)) b).toList

/-- FEED completes from every state: it changes nothing but the assembler's state, the sink, by at most one event, and the
port, where the rest of the chunk comes next (log entry 17). With no resolution in progress the whole chunk is consumed, one
step a byte, with at most one event for each. -/
def Obligations.FeedCompletes : Prop :=
  ∀ (s : State) (chunk : List Byte),
    (∃ t, exec (.feed chunk) s = .next t ∧ t.params = s.params ∧ t.tr = s.tr ∧ t.port = pendFeed chunk.tail s.port ∧
      ∃ events, t.sink = s.sink ++ events ∧ events.length ≤ 1) ∧
    (s.tr.phase = .idle → ∃ t, s.fed chunk = .next t ∧ t.params = s.params ∧ t.tr = s.tr ∧ t.port = s.port ∧
      ∃ events, t.sink = s.sink ++ events ∧ events.length ≤ chunk.length)

/-- Chunk boundaries are not observable (44_pipeline.md R154, which spec/ derives), whether the second chunk is presented
after the first is consumed or stands behind it at the port. -/
def Obligations.FeedIgnoresChunkBoundaries : Prop :=
  ∀ (s : State) (x y : List Byte), s.tr.phase = .idle →
    (∀ t u : State, s.fed x = .next t → t.fed y = .next u → s.fed (x ++ y) = .next u) ∧
    core.run (x.length + y.length) { s with port := pendFeed x (pendFeed y s.port) } = s.fed (x ++ y)

/-- Over any stream fed to an unfaulted block that hunts, the reset state for one, the events added are `resolve(C)` for each
candidate of the stream, in stream order, and nothing else, under both settings of `TERMINATOR_REOPENS` (44_pipeline.md R158,
decision D15; 40_assembler.md R98 and R99, which spec/ derives). -/
def Obligations.EventsAreTheCandidatesInOrder : Prop :=
  ∀ (s : State) (stream : List Byte), s.fault = .none → s.st = .hunt → s.tr.phase = .idle → s.params.cap = none →
    ∃ t, s.fed stream = .next t ∧ t.sink = s.sink ++ (candidates s.params stream).map (resolve s.params)

/-- A run of three or more non-delimiter bytes between two delimiters yields its own event and leaves the same state
whatever it holds; the bytes after it are fed to that state (44_pipeline.md R159 and 60_exceptions.md R163, which spec/
derives): an error disturbs no other frame. -/
def Obligations.FrameLeavesOnlyItsEvent : Prop :=
  ∀ (s : State) (c rest : List Byte), s.fault = .none → s.st = .hunt → s.tr.phase = .idle →
    (∀ n, s.params.cap = some n → c.length ≤ n) → 0x7E#8 ∉ c → 3 ≤ c.length →
    s.fed (0x7E#8 :: (c ++ 0x7E#8 :: rest)) =
      State.fed { s with
        buf := [], st := if s.params.terminatorReopens then .opened else .hunt,
        sink := s.sink ++ [resolve s.params c] } rest

/-- With one delimiter between two frames the second is lost without an event by default, and delivered when the
terminator reopens (40_assembler.md R99 and 70_reset_and_hazards.md R186, which spec/ derives; decision D4). -/
def Obligations.SharedDelimiterLosesTheSecondFrame : Prop :=
  ∀ (s : State) (a b : List Byte), s.fault = .none → s.st = .hunt → s.tr.phase = .idle → s.params.cap = none →
    0x7E#8 ∉ a → 0x7E#8 ∉ b → 3 ≤ a.length → 3 ≤ b.length →
    s.fed (0x7E#8 :: (a ++ 0x7E#8 :: (b ++ [0x7E#8]))) = .next { s with
      st := .opened, buf := [],
      sink := s.sink ++ (if s.params.terminatorReopens then [resolve s.params a, resolve s.params b]
        else [resolve s.params a]) }

/-- Joining the stream in the middle of a frame loses that frame silently and delivers the next whole one
(70_reset_and_hazards.md R184, which spec/ derives). -/
def Obligations.FirstWholeFrameIsDelivered : Prop :=
  ∀ (s : State) (tail c : List Byte), s.fault = .none → s.st = .hunt → s.tr.phase = .idle → s.params.cap = none →
    0x7E#8 ∉ tail → 0x7E#8 ∉ c → 3 ≤ c.length →
    s.fed (tail ++ 0x7E#8 :: 0x7E#8 :: (c ++ [0x7E#8])) = .next { s with
      buf := [], st := if s.params.terminatorReopens then .opened else .hunt,
      sink := s.sink ++ [resolve s.params c] }

/-- END TO END: a frame of the harness, fed to a block that hunts, delivers exactly the message of its type and its
logical payload, and the block hunts (or is open) with nothing kept. `mkframe` and its domain are spec/'s harness (decision D24);
a length or type byte equal to the delimiter cannot be sent (70_reset_and_hazards.md R189), which its domain leaves unsaid
(log entry 15). -/
def Obligations.HarnessFrameDelivers : Prop :=
  ∀ (s : State) (t : Byte) (payload frame : List Byte), mkframe t payload = some frame →
    t ≠ 0x7E#8 → payload.length ≠ 125 → s.fault = .none → s.st = .hunt → s.tr.phase = .idle →
    (∀ n, s.params.cap = some n → frame.length ≤ n + 2) →
    s.fed frame = .next { s with
      buf := [], st := if s.params.terminatorReopens then .opened else .hunt,
      sink := s.sink ++ [decodeMessage s.params t payload] }

/-- CLOSE is its resolution operation by operation: CHKLEN, CHKSUM, the unstuffer's operations and the decoder's, run by
`step` from the latched candidate, end within `len(buf) + 1` steps in the state that CLOSE reaches in one; the steps after
the last operation are idle (44_pipeline.md R152; the transient states between are the model's choice, log entry 4). -/
def Obligations.CloseIsItsOperationsInOrder : Prop :=
  ∀ s : State, s.fault = .none → s.port = [] → s.Settled →
    core.run (s.buf.size + 1) s.latchCandidate = exec .close s

/-- The streaming form agrees with `resolve` for every setting of the parameters that the model counts as admitted
(70_reset_and_hazards.md R197, which spec/ derives). Which settings are admitted is read from the spec by inference, log entry
12, and so is how many bytes of the payload the form keeps, log entry 19. -/
def Obligations.StreamingFormAgrees : Prop :=
  ∀ (p : Config.Params) (c : List Byte), p.ok → streamResolve p c = resolve p c

/-- With parameters that the model counts as admitted, the message depends on the payload's own bytes alone, never on what
lies beyond them: no bit is read past the end (43_decoder.md R133). Which settings are admitted is log entry 12, read from the
spec by inference: beside the bound of decision D13 it asks that the axes and the pad end within the shortest payload. -/
def Obligations.DecodersReadInsideThePayload : Prop :=
  ∀ (p : Config.Params) (t : Byte) (u extra : List Byte), p.ok →
    (t = 0x00#8 → p.ctrlMinBytes ≤ u.length) → (t = 0x01#8 → 7 ≤ u.length) →
    decodeMessage p t (u ++ extra) = decodeMessage p t u

/-- RESET takes the block from any state, faulted or in the middle of a frame, to `HUNT`, an empty buffer and no fault, and
emits nothing; asserted with a byte it wins, and the byte is not consumed (44_pipeline.md R156 and
70_reset_and_hazards.md R181, decision D20). Two things are the model's choice: that the transaction leaves the port with its
byte (log entry 18) and that the list of delivered events is kept (log entry 3). -/
def Obligations.ResetFromAnyState : Prop :=
  ∀ s : State,
    exec .reset s = .next { State.reset with params := s.params, port := s.port, sink := s.sink } ∧
    ∀ b p, s.port = .drive true b :: p →
      step s = .next { State.reset with params := s.params, port := p, sink := s.sink }

/-- With nothing presented nothing happens: the partial frame is kept, nothing is emitted (44_pipeline.md R155, decision
D21; R150). -/
def Obligations.StoppingHoldsTheState : Prop :=
  ∀ s : State, s.Settled →
    (s.port = [] → step s = .next s) ∧ (∀ p, s.port = .drive false none :: p → step s = .next { s with port := p })

/-! ## The whole machine -/

/-- The reset state: HUNT, an empty buffer, no fault (10_state.md R30, decision D2; the fields that are the model's own are
log entries 2 to 5). -/
def Obligations.ResetStateOfTheBlock : Prop :=
  State.reset.st = .hunt ∧ State.reset.buf = [] ∧ State.reset.fault = .none ∧ State.reset.Settled

/-- The reset state meets the invariants of 10_state.md R22. -/
def Obligations.ResetMeetsTheInvariants : Prop := State.reset.Inv

/-- Every step keeps the invariants: the buffer's canonical form, no delimiter in it, empty in HUNT, within `CAP`, and no
overflow without a finite `CAP` (10_state.md R22, which spec/ derives, and R23, decision D5). -/
def Obligations.StepKeepsTheInvariants : Prop :=
  ∀ s t : State, s.Inv → step s = .next t → t.Inv

/-- A step that starts with no resolution in progress ends with none: nothing of a frame is retained between steps and no
state between can be observed (20_memory.md R46; 10_state.md R27). -/
def Obligations.StepsAreAtomic : Prop :=
  ∀ s t : State, s.Settled → step s = .next t → t.Settled

/-- The step never stops: from every state with no resolution in progress, and from every resolution of a candidate that
has a type byte, it answers a next state (44_pipeline.md R151, "a total function" over a state and a byte). That a state with a
resolution in progress exists at all, and takes a step, is the model's choice, log entry 4. -/
def Obligations.StepIsTotal : Prop :=
  ∀ s : State, (s.tr.phase = .payload → 2 ≤ s.tr.cand.length) → Progresses s

/-- No step changes the parameters (60_exceptions.md R172, decision D22), and none takes back an event that the sink has
received (20_memory.md R50: the events leave in stream order). That RESET keeps the list of delivered events too is the model's
choice, log entry 3. -/
def Obligations.ParametersAndEventsStand : Prop :=
  ∀ s t : State, step s = .next t → t.params = s.params ∧ s.sink <+: t.sink

/-- `ev_kind` of each kind; 6 and 7 are never produced (30_encoding.md R80, 60_exceptions.md R160, decision D14). Every output
line for every event: `ev_valid`, the code, and the fields of the event's own kind on their lines; with no event `ev_valid` is
0. A line that carries no meaning, for another kind or with no event, has no value: that is the model's choice, log entry 14
(30_encoding.md R83 leaves it unspecified, and 10_state.md R31 the lines before the first event). -/
def Obligations.EventLines : Prop :=
  (∀ m, (Event.control m).kind = 0#3) ∧ (∀ m, (Event.downlink m).kind = 1#3) ∧
  (Event.err .lengthMismatch).kind = 2#3 ∧ (Event.err .checksumMismatch).kind = 3#3 ∧
  (Event.err .unknownFrameType).kind = 4#3 ∧ (Event.err .shortPayload).kind = 5#3 ∧
  (∀ e : Event, e.kind.toNat ≤ 5) ∧
  outputPort none =
    { evValid := false, evKind := none, evAxes := none, evSwitches := none, evFrameLost := none, evFailsafe := none,
      evPrim := none, evAppId := none, evData := none } ∧
  (∀ m, outputPort (some (.control m)) =
    { evValid := true, evKind := some 0#3, evAxes := some m.axes, evSwitches := some m.switches,
      evFrameLost := some m.frameLost, evFailsafe := some m.failsafe, evPrim := none, evAppId := none,
      evData := none }) ∧
  (∀ m, outputPort (some (.downlink m)) =
    { evValid := true, evKind := some 1#3, evAxes := none, evSwitches := none, evFrameLost := none, evFailsafe := none,
      evPrim := some m.primitiveId, evAppId := some m.appId, evData := some m.data }) ∧
  ∀ k, outputPort (some (.err k)) =
    { evValid := true, evKind := some (Event.err k).kind, evAxes := none, evSwitches := none, evFrameLost := none,
      evFailsafe := none, evPrim := none, evAppId := none, evData := none }
end

