-- ==== Sys2Proof/Laws/State.lean ====
section
/-! SUPPORT. What each update of the state leaves in each field. -/

namespace Sys2Proof.Machine

@[simp] theorem sync_st (s : State) : (sync s).st = .opened := rfl
@[simp] theorem sync_buf (s : State) : (sync s).buf = Memory.clear := rfl
@[simp] theorem sync_fault (s : State) : (sync s).fault = s.fault := rfl
@[simp] theorem sync_tr (s : State) : (sync s).tr = s.tr := rfl
@[simp] theorem sync_params (s : State) : (sync s).params = s.params := rfl
@[simp] theorem sync_port (s : State) : (sync s).port = s.port := rfl
@[simp] theorem sync_sink (s : State) : (sync s).sink = s.sink := rfl

@[simp] theorem push_st (b : Byte) (s : State) : (push b s).st = s.st := rfl
@[simp] theorem push_buf (b : Byte) (s : State) : (push b s).buf = s.buf.append b := rfl
@[simp] theorem push_fault (b : Byte) (s : State) : (push b s).fault = s.fault := rfl
@[simp] theorem push_tr (b : Byte) (s : State) : (push b s).tr = s.tr := rfl
@[simp] theorem push_params (b : Byte) (s : State) : (push b s).params = s.params := rfl
@[simp] theorem push_port (b : Byte) (s : State) : (push b s).port = s.port := rfl
@[simp] theorem push_sink (b : Byte) (s : State) : (push b s).sink = s.sink := rfl

@[simp] theorem restart_st (s : State) : (restart s).st = .opened := rfl
@[simp] theorem restart_buf (s : State) : (restart s).buf = Memory.clear := rfl
@[simp] theorem restart_fault (s : State) : (restart s).fault = s.fault := rfl
@[simp] theorem restart_tr (s : State) : (restart s).tr = s.tr := rfl
@[simp] theorem restart_params (s : State) : (restart s).params = s.params := rfl
@[simp] theorem restart_port (s : State) : (restart s).port = s.port := rfl
@[simp] theorem restart_sink (s : State) : (restart s).sink = s.sink := rfl

@[simp] theorem close_st (s : State) : (close s).st = stAfterClose s.params := rfl
@[simp] theorem close_buf (s : State) : (close s).buf = Memory.clear := rfl
@[simp] theorem close_fault (s : State) : (close s).fault = s.fault := rfl
@[simp] theorem close_tr (s : State) : (close s).tr = s.tr := rfl
@[simp] theorem close_params (s : State) : (close s).params = s.params := rfl
@[simp] theorem close_port (s : State) : (close s).port = s.port := rfl
@[simp] theorem close_sink (s : State) : (close s).sink = s.sink ++ [resolve s.params s.buf.bytes] := rfl

@[simp] theorem markOverflow_st (s : State) : (markOverflow s).st = s.st := rfl
@[simp] theorem markOverflow_buf (s : State) : (markOverflow s).buf = s.buf := rfl
@[simp] theorem markOverflow_fault (s : State) : (markOverflow s).fault = .overflow := rfl
@[simp] theorem markOverflow_tr (s : State) : (markOverflow s).tr = s.tr := rfl
@[simp] theorem markOverflow_params (s : State) : (markOverflow s).params = s.params := rfl
@[simp] theorem markOverflow_port (s : State) : (markOverflow s).port = s.port := rfl
@[simp] theorem markOverflow_sink (s : State) : (markOverflow s).sink = s.sink := rfl

@[simp] theorem markEscape_st (s : State) : (markEscape s).st = s.st := rfl
@[simp] theorem markEscape_buf (s : State) : (markEscape s).buf = s.buf := rfl
@[simp] theorem markEscape_fault (s : State) : (markEscape s).fault = s.fault := rfl
@[simp] theorem markEscape_tr (s : State) : (markEscape s).tr = { s.tr with esc := true } := rfl
@[simp] theorem markEscape_params (s : State) : (markEscape s).params = s.params := rfl
@[simp] theorem markEscape_port (s : State) : (markEscape s).port = s.port := rfl
@[simp] theorem markEscape_sink (s : State) : (markEscape s).sink = s.sink := rfl

@[simp] theorem outputRaw_st (b : Byte) (s : State) : (outputRaw b s).st = s.st := rfl
@[simp] theorem outputRaw_buf (b : Byte) (s : State) : (outputRaw b s).buf = s.buf := rfl
@[simp] theorem outputRaw_fault (b : Byte) (s : State) : (outputRaw b s).fault = s.fault := rfl
@[simp] theorem outputRaw_tr (b : Byte) (s : State) :
    (outputRaw b s).tr = { s.tr with out := s.tr.out ++ [b ^^^ if s.tr.esc then Config.escXor else 0x00#8], esc := false } := rfl
@[simp] theorem outputRaw_params (b : Byte) (s : State) : (outputRaw b s).params = s.params := rfl
@[simp] theorem outputRaw_port (b : Byte) (s : State) : (outputRaw b s).port = s.port := rfl
@[simp] theorem outputRaw_sink (b : Byte) (s : State) : (outputRaw b s).sink = s.sink := rfl

@[simp] theorem awaitChecksum_st (s : State) : (awaitChecksum s).st = s.st := rfl
@[simp] theorem awaitChecksum_buf (s : State) : (awaitChecksum s).buf = s.buf := rfl
@[simp] theorem awaitChecksum_fault (s : State) : (awaitChecksum s).fault = s.fault := rfl
@[simp] theorem awaitChecksum_tr (s : State) : (awaitChecksum s).tr = { s.tr with phase := .checkSum } := rfl
@[simp] theorem awaitChecksum_params (s : State) : (awaitChecksum s).params = s.params := rfl
@[simp] theorem awaitChecksum_port (s : State) : (awaitChecksum s).port = s.port := rfl
@[simp] theorem awaitChecksum_sink (s : State) : (awaitChecksum s).sink = s.sink := rfl

@[simp] theorem startUnstuff_st (s : State) : (startUnstuff s).st = s.st := rfl
@[simp] theorem startUnstuff_buf (s : State) : (startUnstuff s).buf = s.buf := rfl
@[simp] theorem startUnstuff_fault (s : State) : (startUnstuff s).fault = s.fault := rfl
@[simp] theorem startUnstuff_tr (s : State) :
    (startUnstuff s).tr = { s.tr with phase := .payload, raw := rawPayload s.tr.cand, esc := false, out := [] } := rfl
@[simp] theorem startUnstuff_params (s : State) : (startUnstuff s).params = s.params := rfl
@[simp] theorem startUnstuff_port (s : State) : (startUnstuff s).port = s.port := rfl
@[simp] theorem startUnstuff_sink (s : State) : (startUnstuff s).sink = s.sink := rfl

@[simp] theorem deliver_st (e : Event) (s : State) : (s.deliver e).st = s.st := rfl
@[simp] theorem deliver_buf (e : Event) (s : State) : (s.deliver e).buf = s.buf := rfl
@[simp] theorem deliver_fault (e : Event) (s : State) : (s.deliver e).fault = s.fault := rfl
@[simp] theorem deliver_tr (e : Event) (s : State) : (s.deliver e).tr = s.tr := rfl
@[simp] theorem deliver_params (e : Event) (s : State) : (s.deliver e).params = s.params := rfl
@[simp] theorem deliver_port (e : Event) (s : State) : (s.deliver e).port = s.port := rfl
@[simp] theorem deliver_sink (e : Event) (s : State) : (s.deliver e).sink = s.sink ++ [e] := rfl

@[simp] theorem finish_st (e : Event) (s : State) : (s.finish e).st = s.st := rfl
@[simp] theorem finish_buf (e : Event) (s : State) : (s.finish e).buf = s.buf := rfl
@[simp] theorem finish_fault (e : Event) (s : State) : (s.finish e).fault = s.fault := rfl
@[simp] theorem finish_tr (e : Event) (s : State) : (s.finish e).tr = .none := rfl
@[simp] theorem finish_params (e : Event) (s : State) : (s.finish e).params = s.params := rfl
@[simp] theorem finish_port (e : Event) (s : State) : (s.finish e).port = s.port := rfl
@[simp] theorem finish_sink (e : Event) (s : State) : (s.finish e).sink = s.sink ++ [e] := rfl

@[simp] theorem raiseError_st (k : ErrorKind) (s : State) : (s.raiseError k).st = s.st := rfl
@[simp] theorem raiseError_buf (k : ErrorKind) (s : State) : (s.raiseError k).buf = s.buf := rfl
@[simp] theorem raiseError_fault (k : ErrorKind) (s : State) : (s.raiseError k).fault = s.fault := rfl
@[simp] theorem raiseError_tr (k : ErrorKind) (s : State) : (s.raiseError k).tr = .none := rfl
@[simp] theorem raiseError_params (k : ErrorKind) (s : State) : (s.raiseError k).params = s.params := rfl
@[simp] theorem raiseError_port (k : ErrorKind) (s : State) : (s.raiseError k).port = s.port := rfl
@[simp] theorem raiseError_sink (k : ErrorKind) (s : State) : (s.raiseError k).sink = s.sink ++ [.err k] := rfl

@[simp] theorem endFrame_st (s : State) : (s.endFrame).st = stAfterClose s.params := rfl
@[simp] theorem endFrame_buf (s : State) : (s.endFrame).buf = Memory.clear := rfl
@[simp] theorem endFrame_fault (s : State) : (s.endFrame).fault = s.fault := rfl
@[simp] theorem endFrame_tr (s : State) : (s.endFrame).tr = s.tr := rfl
@[simp] theorem endFrame_params (s : State) : (s.endFrame).params = s.params := rfl
@[simp] theorem endFrame_port (s : State) : (s.endFrame).port = s.port := rfl
@[simp] theorem endFrame_sink (s : State) : (s.endFrame).sink = s.sink := rfl

@[simp] theorem latchCandidate_st (s : State) : (s.latchCandidate).st = stAfterClose s.params := rfl
@[simp] theorem latchCandidate_buf (s : State) : (s.latchCandidate).buf = Memory.clear := rfl
@[simp] theorem latchCandidate_fault (s : State) : (s.latchCandidate).fault = s.fault := rfl
@[simp] theorem latchCandidate_tr (s : State) :
    (s.latchCandidate).tr = { phase := .checkLength, cand := s.buf.bytes, raw := [], esc := false, out := [] } := rfl
@[simp] theorem latchCandidate_params (s : State) : (s.latchCandidate).params = s.params := rfl
@[simp] theorem latchCandidate_port (s : State) : (s.latchCandidate).port = s.port := rfl
@[simp] theorem latchCandidate_sink (s : State) : (s.latchCandidate).sink = s.sink := rfl

@[simp] theorem resetBlock_st (s : State) : (resetBlock s).st = .hunt := rfl
@[simp] theorem resetBlock_buf (s : State) : (resetBlock s).buf = Memory.clear := rfl
@[simp] theorem resetBlock_fault (s : State) : (resetBlock s).fault = .none := rfl
@[simp] theorem resetBlock_tr (s : State) : (resetBlock s).tr = .none := rfl
@[simp] theorem resetBlock_params (s : State) : (resetBlock s).params = s.params := rfl
@[simp] theorem resetBlock_port (s : State) : (resetBlock s).port = s.port := rfl
@[simp] theorem resetBlock_sink (s : State) : (resetBlock s).sink = s.sink := rfl

end Sys2Proof.Machine
end

