-- ==== Sys2Proof/Laws/Memory.lean ====
section
/-! SUPPORT. The frame buffer: its canonical form is kept by every memory operation, and what a read gives after one. -/

namespace Sys2Proof.Machine

@[simp] theorem bytes_clear : Memory.clear.bytes = [] := rfl
@[simp] theorem size_clear : Memory.clear.size = 0 := rfl

@[simp] theorem bytes_append (m : Memory) (b : Byte) : (m.append b).bytes = m.bytes ++ [b] := by
  simp [Memory.append, Memory.bytes]

@[simp] theorem size_append (m : Memory) (b : Byte) : (m.append b).size = m.size + 1 := by
  simp [Memory.append, Memory.size]

@[simp] theorem length_bytes (m : Memory) : m.bytes.length = m.size := by
  simp [Memory.bytes, Memory.size]

theorem wf_clear : Memory.clear.wf := rfl

/-- The append keeps the canonical form. -/
theorem wf_append {m : Memory} (h : m.wf) (b : Byte) : (m.append b).wf := by
  have h' : m.map Prod.fst = List.range m.length := h
  simp [Memory.wf, Memory.append, Memory.size, h', List.range_succ]

theorem read_append_of_ne (m : Memory) (b : Byte) {a : Nat} (h : a ≠ m.size) :
    (m.append b).read a = m.read a := by
  unfold Memory.append
  generalize m.size = n at h
  induction m with
  | nil => simp [Memory.read, Ne.symm h]
  | cons c cs ih => simp only [List.cons_append, Memory.read, ih]

/-- An address that is not listed reads as no value. -/
theorem read_unlisted {m : Memory} {a : Nat} (h : a ∉ m.map Prod.fst) : m.read a = none := by
  induction m with
  | nil => rfl
  | cons c cs ih =>
    rw [List.map_cons, List.mem_cons, not_or] at h
    simp only [Memory.read, if_neg (Ne.symm h.1), ih h.2]

theorem read_append_unlisted {m : Memory} (b : Byte) (h : m.read m.size = none) :
    (m.append b).read m.size = some b := by
  unfold Memory.append
  generalize m.size = n at h
  induction m with
  | nil => simp [Memory.read]
  | cons c cs ih =>
    simp only [List.cons_append, Memory.read] at h ⊢
    split at h
    · cases h
    · rw [if_neg ‹_›, ih h]

/-- In the canonical form the appended byte stands at the old length. -/
theorem read_append_size {m : Memory} (h : m.wf) (b : Byte) : (m.append b).read m.size = some b := by
  refine read_append_unlisted b (read_unlisted ?_)
  have h' : m.map Prod.fst = List.range m.length := h
  simp [h', Memory.size]

theorem foldl_append_bytes (m : Memory) (bs : List Byte) : (bs.foldl Memory.append m).bytes = m.bytes ++ bs := by
  induction bs generalizing m with
  | nil => simp
  | cons b rest ih => simp [ih]

theorem foldl_append_wf {m : Memory} (h : m.wf) (bs : List Byte) : (bs.foldl Memory.append m).wf := by
  induction bs generalizing m with
  | nil => exact h
  | cons b rest ih => exact ih (wf_append h b)

@[simp] theorem bytes_ofBytes (bs : List Byte) : (Memory.ofBytes bs).bytes = bs := by
  simp [Memory.ofBytes, foldl_append_bytes]

theorem wf_ofBytes (bs : List Byte) : (Memory.ofBytes bs).wf := foldl_append_wf wf_clear bs

/-- `MemRead(0, len(buf))` is the whole buffer. -/
theorem readRange_all (m : Memory) : m.readRange 0 m.size = m.bytes := by
  rw [Memory.readRange, List.drop_zero, ← length_bytes, List.take_length]

theorem reset_memory_wf : State.reset.buf.wf := rfl

end Sys2Proof.Machine
end

