-- ==== Sys2Proof/Laws/Ops.lean ====
section
/-! SUPPORT. One specification lemma per shared operation: all that it can do, so that no proof unfolds it. -/

namespace Sys2Proof.Machine

/-! ## The guard -/

theorem unlessFaulted_of_none {s : State} (h : s.fault = .none) (f : State → State) : s.unlessFaulted f = f s :=
  if_pos h

theorem unlessFaulted_of_fault {s : State} (h : s.fault ≠ .none) (f : State → State) : s.unlessFaulted f = s :=
  if_neg h

/-- A property that `f` keeps is kept under the guard. -/
theorem unlessFaulted_keeps {P : State → Prop} {s : State} {f : State → State} (hs : P s)
    (hf : s.fault = .none → P (f s)) : P (s.unlessFaulted f) := by
  by_cases h : s.fault = .none
  · rw [unlessFaulted_of_none h]; exact hf h
  · rw [unlessFaulted_of_fault h]; exact hs

/-! ## One byte -/

/-- All that performing a byte can do (40_assembler.md R90). -/
theorem performByte_cases (b : Byte) (s : State) :
    (s.st = .hunt ∧ b = Config.delim ∧ performByte b s = sync s) ∨
    (s.st = .hunt ∧ b ≠ Config.delim ∧ performByte b s = s) ∨
    (s.st = .opened ∧ b = Config.delim ∧ s.buf.size < 3 ∧ performByte b s = restart s) ∨
    (s.st = .opened ∧ b = Config.delim ∧ 3 ≤ s.buf.size ∧ performByte b s = close s) ∨
    (s.st = .opened ∧ b ≠ Config.delim ∧ hasRoom s.params.cap s.buf.size = true ∧ performByte b s = push b s) ∨
    (s.st = .opened ∧ b ≠ Config.delim ∧ hasRoom s.params.cap s.buf.size = false ∧
      performByte b s = markOverflow s) := by
  unfold performByte
  cases hst : s.st <;> by_cases hb : b = Config.delim
  · simp [hb]
  · simp [hb]
  · by_cases hn : s.buf.size < 3
    · simp [hb, hn]
    · simp [hb, hn, Nat.le_of_not_lt hn]
  · cases hr : hasRoom s.params.cap s.buf.size <;> simp [hb]

/-- A property that all five operations of the assembler keep, each under the conditions of its row, is kept by a step
on a byte. -/
theorem stepByte_keeps {P : State → Prop} {s : State} {b : Byte} (hs : P s)
    (hsync : P (sync s)) (hrestart : P (restart s)) (hclose : P (close s))
    (hpush : b ≠ Config.delim → hasRoom s.params.cap s.buf.size = true → P (push b s))
    (hover : hasRoom s.params.cap s.buf.size = false → P (markOverflow s)) : P (stepByte s b) := by
  refine unlessFaulted_keeps hs fun _ => ?_
  rcases performByte_cases b s with ⟨_, _, h⟩ | ⟨_, _, h⟩ | ⟨_, _, _, h⟩ | ⟨_, _, _, h⟩ | ⟨_, hb, hr, h⟩ |
    ⟨_, _, hr, h⟩ <;> rw [h]
  exacts [hsync, hs, hrestart, hclose, hpush hb hr, hover hr]

/-- A property that every step on a byte keeps is kept by a whole chunk (44_pipeline.md R153). -/
theorem feedBytes_keeps {P : State → Prop} (hstep : ∀ s b, P s → P (stepByte s b)) (chunk : List Byte) {s : State}
    (hs : P s) : P (feedBytes s chunk) := by
  induction chunk generalizing s with
  | nil => exact hs
  | cons b rest ih => exact ih (hstep s b hs)

/-! ## FEED, one byte a step -/

@[simp] theorem pendFeed_nil (p : List Request) : pendFeed [] p = p := rfl
@[simp] theorem pendFeed_cons (b : Byte) (rest : List Byte) (p : List Request) :
    pendFeed (b :: rest) p = .feed (b :: rest) :: p := rfl

/-- All that FEED can do in one step (44_pipeline.md R153). -/
theorem execFeed_cases (chunk : List Byte) (s : State) :
    (chunk = [] ∧ execFeed chunk s = .next s) ∨
    (∃ b rest, chunk = b :: rest ∧ execFeed chunk s = .next { stepByte s b with port := pendFeed rest s.port }) := by
  cases chunk with
  | nil => exact .inl ⟨rfl, rfl⟩
  | cons b rest => exact .inr ⟨b, rest, rfl, rfl⟩

@[simp] theorem feedBytes_nil (s : State) : feedBytes s [] = s := rfl
@[simp] theorem feedBytes_cons (s : State) (b : Byte) (rest : List Byte) :
    feedBytes s (b :: rest) = feedBytes (stepByte s b) rest := rfl

theorem feedBytes_append (s : State) (x y : List Byte) : feedBytes s (x ++ y) = feedBytes (feedBytes s x) y := by
  induction x generalizing s with
  | nil => rfl
  | cons b rest ih => exact ih (stepByte s b)

@[simp] theorem stepByte_tr (s : State) (b : Byte) : (stepByte s b).tr = s.tr :=
  stepByte_keeps (P := fun t => t.tr = s.tr) rfl rfl rfl rfl (fun _ _ => rfl) (fun _ => rfl)
@[simp] theorem stepByte_params (s : State) (b : Byte) : (stepByte s b).params = s.params :=
  stepByte_keeps (P := fun t => t.params = s.params) rfl rfl rfl rfl (fun _ _ => rfl) (fun _ => rfl)
@[simp] theorem stepByte_port (s : State) (b : Byte) : (stepByte s b).port = s.port :=
  stepByte_keeps (P := fun t => t.port = s.port) rfl rfl rfl rfl (fun _ _ => rfl) (fun _ => rfl)

/-- A byte's step does not look at what comes after it at the port. -/
theorem stepByte_setPort (s : State) (b : Byte) (p : List Request) :
    stepByte { s with port := p } b = { stepByte s b with port := p } := by
  obtain ⟨st, _, fault, _, _, _, _⟩ := s
  cases fault
  · cases st <;> simp only [stepByte, State.unlessFaulted, performByte] <;> split_ifs <;> rfl
  · rfl

/-! ## The checks of the validator -/

/-- All that CHKLEN and CHKSUM can do to a resolution. -/
theorem checkLength_cases (s : State) :
    (chklenPasses s.tr.cand = true ∧ checkLength s = awaitChecksum s) ∨
    (chklenPasses s.tr.cand = false ∧ checkLength s = s.raiseError .lengthMismatch) := by
  unfold checkLength
  cases chklenPasses s.tr.cand <;> simp

theorem checkSum_cases (s : State) :
    (chksumPasses s.tr.cand = true ∧ checkSum s = startUnstuff s) ∨
    (chksumPasses s.tr.cand = false ∧ checkSum s = s.raiseError .checksumMismatch) := by
  unfold checkSum
  cases chksumPasses s.tr.cand <;> simp

/-- All that `validate` can answer (42_validator.md R120). -/
theorem validate_cases (c : List Byte) :
    (chklenPasses c = false ∧ validate c = some .lengthMismatch) ∨
    (chklenPasses c = true ∧ chksumPasses c = false ∧ validate c = some .checksumMismatch) ∨
    (chklenPasses c = true ∧ chksumPasses c = true ∧ validate c = none) := by
  unfold validate
  cases chklenPasses c <;> cases chksumPasses c <;> simp

/-! ## Fetching -/

/-- All that fetching can find in a resolution in progress. -/
theorem fetchResolution_cases (s : State) :
    (s.tr.phase = .idle ∧ fetchResolution s = (.nothing, s)) ∨
    (s.tr.phase = .checkLength ∧ fetchResolution s = (.key (.validator false) [], s)) ∨
    (s.tr.phase = .checkSum ∧ fetchResolution s = (.key (.validator true) [], s)) ∨
    (∃ b rest, s.tr.phase = .payload ∧ s.tr.raw = b :: rest ∧
      fetchResolution s = (.key .unstuffer [b], { s with tr := { s.tr with raw := rest } })) ∨
    (s.tr.phase = .payload ∧ s.tr.raw = [] ∧
      fetchResolution s = (.key .frame ((s.tr.cand.drop 1).take 1), s)) := by
  unfold fetchResolution
  cases s.tr.phase <;> simp
  cases s.tr.raw <;> simp

/-- All that fetching can find (44_pipeline.md R150, R155, R156; 40_assembler.md R96). -/
theorem fetch_cases (s : State) :
    (∃ r rest, s.port = r :: rest ∧ (r.isReset = true ∨ s.fault ≠ .none ∨ s.tr.phase = .idle) ∧
      fetch s = (r.key s, { s with port := rest })) ∨
    (s.fault = .none ∧ fetch s = fetchResolution s) ∨
    (s.fault ≠ .none ∧ s.port = [] ∧ fetch s = (.nothing, s)) := by
  unfold fetch
  cases hp : s.port with
  | nil => by_cases hf : s.fault = .none <;> simp [hf]
  | cons r rest =>
    by_cases hr : r.isReset = true ∨ s.fault ≠ .none ∨ s.tr.phase = .idle
    · exact .inl ⟨r, rest, rfl, hr, by simp only [if_pos hr]⟩
    · refine .inr (.inl ⟨?_, by simp only [if_neg hr]⟩)
      by_contra hf
      exact hr (.inr (.inl hf))

end Sys2Proof.Machine
end

