-- ==== Sys2Proof/Laws/PerInstr.lean ====
section
/-! SUPPORT. Statements made per operation, over its syntax: the key byte of a well-formed operation matches its row of
spec/opcode_table.json (spec/30_encoding.md R79). -/

namespace Sys2Proof.Laws

/-- The first byte of the encoding matches the row's `match` under its `mask`. -/
def KeyMatchesRow.Statement (i : Instr) : Prop :=
  i.wf = true → ∀ k, (encode i).head? = some k → i.row.covers k = true

theorem KeyMatchesRow.sync : KeyMatchesRow.Statement .sync := by
  intro _ k hk
  cases hk
  decide

theorem KeyMatchesRow.drop (b : Byte) : KeyMatchesRow.Statement (.drop b) := by
  intro _ k hk
  simp [Instr.row, OpcodeRow.covers]

theorem KeyMatchesRow.restart : KeyMatchesRow.Statement .restart := by
  intro _ k hk
  cases hk
  decide

theorem KeyMatchesRow.close : KeyMatchesRow.Statement .close := by
  intro _ k hk
  cases hk
  decide

theorem KeyMatchesRow.push (b : Byte) : KeyMatchesRow.Statement (.push b) := by
  intro _ k hk
  simp [Instr.row, OpcodeRow.covers]

theorem KeyMatchesRow.overflow (b : Byte) : KeyMatchesRow.Statement (.overflow b) := by
  intro _ k hk
  simp [Instr.row, OpcodeRow.covers]

theorem KeyMatchesRow.unstuffEsc : KeyMatchesRow.Statement .unstuffEsc := by
  intro _ k hk
  cases hk
  decide

theorem KeyMatchesRow.unstuffPlain (b : Byte) : KeyMatchesRow.Statement (.unstuffPlain b) := by
  intro _ k hk
  simp [Instr.row, OpcodeRow.covers]

theorem KeyMatchesRow.chklen : KeyMatchesRow.Statement .chklen := by
  intro _ k hk
  cases hk

theorem KeyMatchesRow.chksum : KeyMatchesRow.Statement .chksum := by
  intro _ k hk
  cases hk

theorem KeyMatchesRow.control : KeyMatchesRow.Statement .control := by
  intro _ k hk
  cases hk
  decide

theorem KeyMatchesRow.downlink : KeyMatchesRow.Statement .downlink := by
  intro _ k hk
  cases hk
  decide

theorem KeyMatchesRow.unknown (t : Byte) : KeyMatchesRow.Statement (.unknown t) := by
  intro _ k hk
  simp [Instr.row, OpcodeRow.covers]

theorem KeyMatchesRow.feed (chunk : List Byte) : KeyMatchesRow.Statement (.feed chunk) := by
  intro _ k hk
  simp [Instr.row, OpcodeRow.covers]

theorem KeyMatchesRow.reset : KeyMatchesRow.Statement .reset := by
  intro _ k hk
  cases hk

end Sys2Proof.Laws
end

