-- ==== Sys2Proof/Laws/Run.lean ====
section
/-! SUPPORT. How a run goes on, so that no proof unfolds `Host.Core.run`. -/

namespace Sys2Proof.Machine

/-- Any machine's run after its first step. -/
theorem coreRun_succ_of_next {M : Host.Core} {s t : M.State} (h : M.step s = .next t) (k : Nat) :
    M.run (k + 1) s = M.run k t := by
  rw [Host.Core.run, h]

/-- A run that reaches `t` goes on from `t`. -/
theorem coreRun_add_of_next {M : Host.Core} {m : Nat} {s t : M.State} (h : M.run m s = .next t) (n : Nat) :
    M.run (m + n) s = M.run n t := by
  induction m generalizing s with
  | zero =>
    cases h
    rw [Nat.zero_add]
  | succ m ih =>
    rw [Nat.succ_add]
    rw [Host.Core.run] at h ⊢
    cases hs : M.step s <;> rw [hs] at h <;> first | cases h | exact ih h

theorem run_zero (s : State) : core.run 0 s = .next s := rfl

theorem run_succ_of_next {s t : State} (h : step s = .next t) (k : Nat) : core.run (k + 1) s = core.run k t :=
  coreRun_succ_of_next (M := core) h k

theorem run_add_of_next {m : Nat} {s t : State} (h : core.run m s = .next t) (n : Nat) :
    core.run (m + n) s = core.run n t :=
  coreRun_add_of_next (M := core) h n

end Sys2Proof.Machine
end

