-- ==== Sys2Proof/Tests/Slice0.lean ====
section
/-! SUPPORT. Tests of the model's own. Expected values come from spec/: the keys of opcode_table.json, the vectors of
95_test_vectors.md (named in each test) and the rules. Then one witness for each statement that has hypotheses. -/

namespace Sys2Proof.Tests

open Sys2Proof Sys2Proof.Machine

/-! ## Well-formedness: an ill-formed term for each check -/

theorem test_wf_refuses_drop_of_delimiter : (Instr.drop 0x7E#8).wf = false := by decide
theorem test_wf_refuses_push_of_delimiter : (Instr.push 0x7E#8).wf = false := by decide
theorem test_wf_refuses_overflow_of_delimiter : (Instr.overflow 0x7E#8).wf = false := by decide
theorem test_wf_refuses_plain_escape : (Instr.unstuffPlain 0x7D#8).wf = false := by decide
theorem test_wf_refuses_unknown_control : (Instr.unknown 0x00#8).wf = false := by decide
theorem test_wf_refuses_unknown_downlink : (Instr.unknown 0x01#8).wf = false := by decide
theorem test_wf_accepts_push_of_escape : (Instr.push 0x7D#8).wf = true := by decide
theorem test_sync_not_offered_when_open : Instr.sync.offeredAt (.byte .opened 0 none) = false := by decide
theorem test_close_not_offered_at_two : Instr.close.offeredAt (.byte .opened 2 none) = false := by decide

/-! ## Decoding: keys written out from opcode_table.json -/

theorem test_decode_sync : decode (.byte .hunt 0 none) [0b01111110#8] = .ok (.sync, []) := by rfl
theorem test_decode_drop : decode (.byte .hunt 0 none) [0b00010001#8] = .ok (.drop 0x11#8, []) := by rfl
theorem test_decode_restart : decode (.byte .opened 2 none) [0b01111110#8] = .ok (.restart, []) := by rfl
theorem test_decode_close : decode (.byte .opened 3 none) [0b01111110#8] = .ok (.close, []) := by rfl
theorem test_decode_push_escape : decode (.byte .opened 0 none) [0b01111101#8] = .ok (.push 0x7D#8, []) := by rfl
theorem test_decode_push_last_room : decode (.byte .opened 9 (some 10)) [0xB0#8] = .ok (.push 0xB0#8, []) := by rfl
theorem test_decode_overflow : decode (.byte .opened 9 (some 9)) [0xB0#8] = .ok (.overflow 0xB0#8, []) := by rfl
theorem test_decode_unstuff_esc : decode .unstuffer [0b01111101#8] = .ok (.unstuffEsc, []) := by rfl
theorem test_decode_unstuff_plain : decode .unstuffer [0b01011110#8] = .ok (.unstuffPlain 0x5E#8, []) := by rfl
theorem test_decode_chklen : decode (.validator false) [] = .ok (.chklen, []) := by rfl
theorem test_decode_chksum : decode (.validator true) [] = .ok (.chksum, []) := by rfl
theorem test_decode_control : decode .frame [0b00000000#8] = .ok (.control, []) := by rfl
theorem test_decode_downlink : decode .frame [0b00000001#8] = .ok (.downlink, []) := by rfl
theorem test_decode_unknown : decode .frame [0b01111101#8] = .ok (.unknown 0x7D#8, []) := by rfl
theorem test_decode_feed : decode (.host false) [0x7E#8, 0x01#8] = .ok (.feed [0x7E#8, 0x01#8], []) := by rfl
theorem test_decode_reset : decode (.host true) [] = .ok (.reset, []) := by rfl
theorem test_decode_no_byte : decode (.byte .hunt 0 none) [] = .error .noInputByte := by rfl
theorem test_decode_no_raw_byte : decode .unstuffer [] = .error .noRawByte := by rfl
theorem test_decode_no_type_byte : decode .frame [] = .error .noTypeByte := by rfl
theorem test_word_sync : decodeTableWord 8 0x7E = some .sync := by decide
theorem test_word_unstuff_esc : decodeTableWord 8 0x7D = some .unstuffEsc := by decide
theorem test_word_downlink : decodeTableWord 8 0x01 = some .downlink := by decide
theorem test_word_drop : decodeTableWord 8 0x55 = some (.drop 0x55#8) := by decide

/-! ## The unstuffer (95_test_vectors.md 2.2) -/

/-- T-UNS-6. -/
theorem test_unstuff_three_escapes :
    unstuff [0x7D#8, 0x5E#8, 0x7D#8, 0x5D#8, 0x7D#8, 0x31#8] = [0x7E#8, 0x7D#8, 0x11#8] := by decide
/-- T-UNS-10. -/
theorem test_unstuff_flips_bit_five : unstuff [0x7D#8, 0xFF#8] = [0xDF#8] := by decide
/-- T-UNS-11. -/
theorem test_unstuff_trailing_escape : unstuff [0x41#8, 0x7D#8] = [0x41#8] := by decide
/-- T-UNS-15. -/
theorem test_unstuff_escapes_in_a_row :
    unstuff [0x7D#8, 0x7D#8, 0x7D#8, 0x41#8, 0x42#8] = [0x61#8, 0x42#8] := by decide

/-! ## `resolve` (95_test_vectors.md 2.3, 2.4) -/

/-- The payload of T-SRC-4: every axis 1024, by 43_decoder.md R136. -/
def centred : List Byte :=
  [0x00#8, 0x04#8, 0x20#8, 0x00#8, 0x01#8, 0x08#8, 0x40#8, 0x00#8, 0x02#8, 0x10#8, 0x80#8,
   0x00#8, 0x04#8, 0x20#8, 0x00#8, 0x01#8, 0x08#8, 0x40#8, 0x00#8, 0x02#8, 0x10#8, 0x80#8, 0x00#8, 0x00#8]

/-- The candidate of T-SRC-5. -/
def downlinkCandidate : List Byte :=
  [0x08#8, 0x01#8, 0x32#8, 0x01#8, 0x02#8, 0xAA#8, 0xBB#8, 0xCC#8, 0xDD#8, 0xB0#8]

/-- The message of T-SRC-5. -/
def downlinkMessage : DownlinkMsg := ⟨0x32#8, 0x0201#16, ⟨#[0xAA#8, 0xBB#8, 0xCC#8, 0xDD#8], rfl⟩⟩

/-- T-SRC-4. -/
theorem test_control_centred :
    resolve .default (0x19#8 :: 0x00#8 :: centred ++ [0xE6#8]) =
      .control ⟨Vector.replicate 16 0x400#11, 0#2, false, false⟩ := by decide

/-- T-DEC-1: sixteen distinct axes. -/
theorem test_control_distinct_axes :
    controlEvent .default
      [0x00#8, 0x58#8, 0xC3#8, 0x33#8, 0x66#8, 0x72#8, 0x99#8, 0xFD#8, 0x7C#8, 0x69#8, 0x58#8, 0x27#8, 0x5B#8, 0xDC#8,
       0xFB#8, 0xA6#8, 0x78#8, 0xCB#8, 0x8D#8, 0xFE#8, 0xF5#8, 0xFF#8, 0x01#8, 0x01#8] =
      .control ⟨⟨#[0#11, 107#11, 207#11, 307#11, 407#11, 507#11, 607#11, 707#11, 807#11, 907#11, 1007#11, 1107#11,
        1207#11, 1307#11, 1407#11, 2047#11], rfl⟩, 1#2, true, false⟩ := by decide

/-- T-DEC-3: `switches[1]` and `failsafe`. -/
theorem test_control_second_switch_and_failsafe :
    controlEvent .default (List.replicate 22 0x00#8 ++ [0x02#8, 0x02#8]) =
      .control ⟨Vector.replicate 16 0#11, 2#2, false, true⟩ := by decide

/-- T-DEC-4: pad and reserved flags. -/
theorem test_control_reserved_bits :
    controlEvent .default (List.replicate 22 0x00#8 ++ [0xFC#8, 0x00#8]) =
      .control ⟨Vector.replicate 16 0#11, 0#2, false, false⟩ := by decide

/-- T-DEC-13, both columns. -/
theorem test_control_alternative_b :
    resolve .default (0x18#8 :: 0x00#8 :: List.replicate 22 0x00#8 ++ [0x0D#8, 0xDA#8]) = .err .shortPayload ∧
    resolve .alternativeB (0x18#8 :: 0x00#8 :: List.replicate 22 0x00#8 ++ [0x0D#8, 0xDA#8]) =
      .control ⟨Vector.replicate 16 0#11, 1#2, true, true⟩ := by decide

/-- T-VAL-13. -/
theorem test_downlink : resolve .default downlinkCandidate = .downlink downlinkMessage := by decide
/-- T-VAL-7: a sum of 256 is no multiple of 255. -/
theorem test_checksum_modulus : resolve .default [0x01#8, 0x00#8, 0xFF#8] = .err .checksumMismatch := by decide
/-- T-VAL-6: the length check comes first. -/
theorem test_length_before_checksum : resolve .default [0x02#8, 0x00#8, 0xFD#8] = .err .lengthMismatch := by decide
/-- T-VAL-4: a declared length of 0. -/
theorem test_zero_length : resolve .default [0x00#8, 0x00#8, 0x00#8] = .err .lengthMismatch := by decide
/-- T-VAL-1. -/
theorem test_empty_candidate : resolve .default [] = .err .lengthMismatch := by decide
/-- T-VAL-11: a smaller declared length passes. -/
theorem test_small_length_passes : resolve .default [0x01#8, 0x00#8, 0xFE#8, 0x00#8] = .err .shortPayload := by decide
/-- T-PIPE-5: an unknown type with an empty payload. -/
theorem test_unknown_before_short : resolve .default [0x01#8, 0x02#8, 0xFC#8] = .err .unknownFrameType := by decide
/-- The accumulator trace of 95_test_vectors.md 2.3. -/
theorem test_carry_sum : carrySum downlinkCandidate = 0xFF#8 ∧ carrySum (downlinkCandidate.take 6) = 0xE8#8 := by
  decide

/-! ## One step each (95_test_vectors.md 2.1) -/

/-- An open frame with these bytes collected. -/
def opened (bytes : List Byte) : State := { State.reset with st := .opened, buf := Memory.ofBytes bytes }

/-- A state with one byte presented. -/
def presenting (b : Byte) (s : State) : State := { s with port := [.drive false (some b)] }

/-- A resolution with a candidate, at a phase. -/
def resolving (phase : Phase) (cand raw : List Byte) (esc : Bool) (out : List Byte) : State :=
  { State.reset with tr := ⟨phase, cand, raw, esc, out⟩ }

/-- The next state of an outcome. -/
def after : Host.Outcome State Fault Refusal → Option State
  | .next s => some s
  | _ => none

/-- T-ASM-3. -/
theorem test_step_sync : after (step (presenting 0x7E#8 .reset)) = some (opened []) := by decide
/-- T-ASM-2. -/
theorem test_step_drop : after (step (presenting 0x7D#8 .reset)) = some .reset := by decide
/-- 40_assembler.md R93, its example. -/
theorem test_step_push : after (step (presenting 0x01#8 (opened [0x08#8]))) = some (opened [0x08#8, 0x01#8]) := by decide
/-- T-ASM-8. -/
theorem test_step_restart : after (step (presenting 0x7E#8 (opened [0x01#8, 0x02#8]))) = some (opened []) := by decide
/-- 40_assembler.md R95, its example. -/
theorem test_step_close :
    after (step (presenting 0x7E#8 (opened downlinkCandidate))) =
      some { State.reset with sink := [.downlink downlinkMessage] } := by decide
/-- T-ASM-16, its tenth content byte. -/
theorem test_step_overflow :
    (after (step (presenting 0xB0#8
      { opened (downlinkCandidate.take 9) with params := { Config.Params.default with cap := some 9 } }))).map
      (fun s => (s.fault, s.buf.bytes)) = some (.overflow, downlinkCandidate.take 9) := by decide
/-- 95_test_vectors.md P5, step 6. -/
theorem test_step_faulted_is_stuck :
    after (step (presenting 0x7E#8 { opened [0x01#8] with fault := .overflow })) =
      some { opened [0x01#8] with fault := .overflow } := by decide
/-- T-ASM-19 and 44_pipeline.md R156: reset wins over a byte. -/
theorem test_step_reset :
    after (step { opened [0x08#8, 0x01#8] with port := [.drive true (some 0x7E#8)] }) = some .reset := by decide
/-- 20_memory.md R46: the step of the first byte, the rest of the chunk still to come. -/
theorem test_step_feed :
    after (step { State.reset with port := [.feed [0x7E#8, 0x08#8]] }) =
      some { opened [] with port := [.feed [0x08#8]] } := by decide
/-- 44_pipeline.md R153, its example. -/
theorem test_fed :
    after (State.reset.fed [0x7E#8, 0x08#8, 0x01#8, 0x32#8, 0x01#8]) =
      some (opened [0x08#8, 0x01#8, 0x32#8, 0x01#8]) := by decide
/-- T-VAL-13, first check. -/
theorem test_step_chklen_passes :
    (after (step (resolving .checkLength downlinkCandidate [] false []))).map (fun s => s.tr.phase) =
      some .checkSum := by decide
/-- T-VAL-6. -/
theorem test_step_chklen_raises :
    after (step (resolving .checkLength [0x02#8, 0x00#8, 0xFD#8] [] false [])) =
      some { State.reset with sink := [.err .lengthMismatch] } := by decide
/-- 95_test_vectors.md P1, inside step 12. -/
theorem test_step_chksum_passes :
    (after (step (resolving .checkSum downlinkCandidate [] false []))).map (fun s => s.tr.raw) =
      some [0x32#8, 0x01#8, 0x02#8, 0xAA#8, 0xBB#8, 0xCC#8, 0xDD#8] := by decide
/-- T-VAL-18. -/
theorem test_step_chksum_raises :
    after (step (resolving .checkSum (downlinkCandidate.take 9 ++ [0xB1#8]) [] false [])) =
      some { State.reset with sink := [.err .checksumMismatch] } := by decide
/-- 41_unstuffer.md R111. -/
theorem test_step_unstuff_esc :
    (after (step (resolving .payload [] [0x7D#8, 0x5E#8] false []))).map (fun s => s.tr) =
      some ⟨.payload, [], [0x5E#8], true, []⟩ := by decide
/-- T-UNS-3, its second byte. -/
theorem test_step_unstuff_plain :
    (after (step (resolving .payload [] [0x5E#8] true []))).map (fun s => s.tr) =
      some ⟨.payload, [], [], false, [0x7E#8]⟩ := by decide
/-- T-DEC-7: the document's literal 22 bytes. -/
theorem test_step_control_short :
    after (step (resolving .payload [0x17#8, 0x00#8, 0xE8#8] [] false (centred.take 22))) =
      some { State.reset with sink := [.err .shortPayload] } := by decide
/-- T-SRC-4. -/
theorem test_step_control :
    after (step (resolving .payload [0x19#8, 0x00#8, 0xE6#8] [] false centred)) =
      some { State.reset with sink := [.control ⟨Vector.replicate 16 0x400#11, 0#2, false, false⟩] } := by decide
/-- T-SRC-5. -/
theorem test_step_downlink :
    after (step (resolving .payload [0x08#8, 0x01#8] [] false
      [0x32#8, 0x01#8, 0x02#8, 0xAA#8, 0xBB#8, 0xCC#8, 0xDD#8])) =
      some { State.reset with sink := [.downlink downlinkMessage] } := by decide
/-- T-DEC-9, six payload bytes. -/
theorem test_step_downlink_short :
    after (step (resolving .payload [0x07#8, 0x01#8] [] false [0x32#8, 0x01#8, 0x02#8, 0xAA#8, 0xBB#8, 0xCC#8])) =
      some { State.reset with sink := [.err .shortPayload] } := by decide
/-- T-DEC-10. -/
theorem test_step_unknown :
    after (step (resolving .payload [0x04#8, 0x7D#8] [] false [0x01#8])) =
      some { State.reset with sink := [.err .unknownFrameType] } := by decide
/-- 44_pipeline.md R155. -/
theorem test_step_idle : after (step (opened [0x08#8])) = some (opened [0x08#8]) := by decide
/-- A table word, placed in the reset state, is what the next step runs. -/
theorem test_placed_sync : after (step (State.reset.withFetchWord 8 0x7E)) = some (opened []) := by decide
theorem test_placed_downlink :
    (after (step (State.reset.withFetchWord 8 0x01))).map (fun s => s.sink) = some [.err .shortPayload] := by decide

/-! ## Witnesses: a concrete state and operands for the hypotheses of each statement that has some, clause by clause -/

/-- A finite buffer that is exactly full. -/
def full : State := { opened [0x01#8, 0x02#8, 0x03#8] with params := { Config.Params.default with cap := some 3 } }

/-- A block that hit its capacity. -/
def stuck : State := { full with fault := .overflow }

theorem witness_DecodeOfEncode_push :
    (Instr.push 0x7D#8).wf = true ∧ (Instr.push 0x7D#8).offeredAt (.byte .opened 2 (some 3)) = true := by decide
theorem witness_DecodeOfEncode_close :
    Instr.close.wf = true ∧ Instr.close.offeredAt (.byte .opened 3 (some 3)) = true := by decide
theorem witness_DecodeOfEncode_feed :
    (Instr.feed [0x7E#8]).wf = true ∧ (Instr.feed [0x7E#8]).offeredAt (.host false) = true := by decide
theorem witness_EncodeOfDecode : decode .frame [0xFF#8, 0x01#8] = .ok (.unknown 0xFF#8, [0x01#8]) := by rfl
theorem witness_DecodeTakesRowsByPriority :
    decode .unstuffer [0x7D#8] = .ok (.unstuffEsc, []) ∧ (Instr.unstuffPlain 0x00#8).wf = true ∧
      (Instr.unstuffPlain 0x00#8).offeredAt .unstuffer = true ∧
      (Instr.unstuffPlain 0x00#8).row.covers 0x7D#8 = true := ⟨rfl, by decide, by decide, by decide⟩
theorem witness_StepRunsTheDecodedOperation_reset :
    { stuck with port := [.drive true none] }.port = .drive true none :: [] ∧
      decode (.host true) [] = .ok (.reset, []) := ⟨rfl, rfl⟩
theorem witness_StepRunsTheDecodedOperation_byte :
    (presenting 0x7E#8 full).fault = .none ∧ (presenting 0x7E#8 full).tr.phase = .idle ∧
      decode (.byte full.st full.buf.size full.params.cap) [0x7E#8] = .ok (.close, []) := ⟨rfl, rfl, rfl⟩
theorem witness_StepRunsTheDecodedOperation_feed :
    { full with port := [.feed [0x7E#8]] }.tr.phase = .idle ∧
      decode (.host false) [0x7E#8] = .ok (.feed [0x7E#8], []) := ⟨rfl, rfl⟩
theorem witness_StepRunsTheDecodedOperation_chklen :
    (resolving .checkLength downlinkCandidate [] false []).fault = .none ∧
      (resolving .checkLength downlinkCandidate [] false []).port = [] ∧
      decode (.validator false) [] = .ok (.chklen, []) := ⟨rfl, rfl, rfl⟩
theorem witness_StepRunsTheDecodedOperation_chksum :
    (resolving .checkSum downlinkCandidate [] false []).tr.phase = .checkSum ∧
      decode (.validator true) [] = .ok (.chksum, []) := ⟨rfl, rfl⟩
theorem witness_StepRunsTheDecodedOperation_raw :
    (resolving .payload downlinkCandidate [0x7D#8] false []).tr.raw = 0x7D#8 :: [] ∧
      decode .unstuffer [0x7D#8] = .ok (.unstuffEsc, []) := ⟨rfl, rfl⟩
theorem witness_StepRunsTheDecodedOperation_type :
    (resolving .payload [0x01#8, 0x00#8] [] false []).tr.cand = 0x01#8 :: 0x00#8 :: [] ∧
      decode .frame [0x00#8] = .ok (.control, []) := ⟨rfl, rfl⟩
theorem witness_PlacedWordRunsNext : decodeTableWord 8 0x00 = some .control := by decide
theorem witness_ByteSelectsByDecisionTable_sync :
    (presenting 0x7E#8 .reset).st = .hunt ∧ (presenting 0x7E#8 .reset).tr.phase = .idle ∧
      (presenting 0x7E#8 .reset).port = .drive false (some 0x7E#8) :: [] := by decide
theorem witness_ByteSelectsByDecisionTable_drop :
    (presenting 0x7D#8 .reset).st = .hunt ∧ (0x7D#8 : Byte) ≠ 0x7E#8 := by decide
theorem witness_ByteSelectsByDecisionTable_push :
    (presenting 0x7D#8 { full with buf := Memory.ofBytes [0x01#8, 0x02#8] }).st = .opened ∧
      Memory.size (Memory.ofBytes [0x01#8, 0x02#8]) < 3 ∧ full.params.cap = some 3 := by decide
theorem witness_ByteSelectsByDecisionTable_overflow :
    (presenting 0x7D#8 full).fault = .none ∧ full.params.cap = some full.buf.size := by decide
theorem witness_ByteSelectsByDecisionTable_restart :
    (opened [0x01#8, 0x02#8]).st = .opened ∧ (opened [0x01#8, 0x02#8]).buf.size ≤ 2 := by decide
theorem witness_ByteSelectsByDecisionTable_close : full.st = .opened ∧ 2 < full.buf.size := by decide
theorem witness_ByteSelectsByDecisionTable_faulted : (presenting 0x7E#8 stuck).fault ≠ .none := by decide
theorem witness_ByteSelectsByDecisionTable_total : ∀ c, full.params.cap = some c → full.buf.size ≤ c := by
  intro c h
  cases h
  decide
theorem witness_SyncOpensAnEmptyFrame : State.reset.fault = .none := by decide
theorem witness_PushAppendsOneByte : full.fault = .none ∧ full.buf.wf := by decide
theorem witness_PushAppendsOneByte_key : (0x7D#8 : Byte) ≠ 0x7E#8 ∧ ∀ c, some 3 = some c → 2 < c := by
  refine ⟨by decide, ?_⟩
  intro c h
  cases h
  decide
theorem witness_RestartDiscardsAndReopens : (opened [0x01#8, 0x02#8]).fault = .none := by decide
theorem witness_CloseResolvesTheCandidate : (opened downlinkCandidate).fault = .none := by decide
theorem witness_OverflowOnlyMarksTheBlock : full.fault = .none := by decide
theorem witness_FaultedBlockIsStuck :
    stuck.fault ≠ .none ∧ stuck.port = [] ∧ Instr.close ≠ .reset := by decide
theorem witness_FaultedBlockIsStuck_byte :
    (presenting 0x7E#8 stuck).fault ≠ .none ∧ (presenting 0x7E#8 stuck).port = .drive false (some 0x7E#8) :: [] := by
  decide
theorem witness_FaultedBlockIsStuck_chunk :
    { stuck with port := [.feed [0x7E#8, 0x01#8]] }.fault ≠ .none ∧
      { stuck with port := [.feed [0x7E#8, 0x01#8]] }.port = .feed [0x7E#8, 0x01#8] :: [] := by decide
theorem witness_OnlyTheAssemblerWritesItsState :
    after (exec .chklen (resolving .checkLength downlinkCandidate [] false [])) =
      some (resolving .checkSum downlinkCandidate [] false []) := by decide
theorem witness_UnstuffOutputLaws : 0x7D#8 ∉ [0x7E#8, (0x41#8 : Byte)] ∧ (0x5E#8 : Byte) ≠ 0x7D#8 ∧ 7 < 8 := by decide
theorem witness_MalformedEscapesAreTolerated : (0x41#8 : Byte) ≠ 0x7D#8 := by decide
theorem witness_UnstuffOperationsRun : (resolving .payload [] [] true []).fault = .none := by decide
theorem witness_ChklenComparesTheDeclaredLength_passes :
    (resolving .checkLength [0x01#8, 0x00#8, 0xFE#8] [] false []).tr.cand = 0x01#8 :: [0x00#8, 0xFE#8] ∧
      2 ≤ [0x00#8, (0xFE#8 : Byte)].length ∧ (0x01#8 : Byte).toNat < [0x00#8, (0xFE#8 : Byte)].length := by decide
theorem witness_ChklenComparesTheDeclaredLength_empty :
    (resolving .checkLength [] [] false []).tr.cand = [] := by decide
theorem witness_ChksumSumsEveryByte : (resolving .checkSum downlinkCandidate [] false []).fault = .none := by decide
theorem witness_CarrySumDecidesTheChecksum : chklenPasses [0x01#8, 0x00#8, 0xFE#8] = true := by decide
theorem witness_ChecksumBlindSpots : List.Perm [0x01#8, (0x32#8 : Byte)] [0x32#8, 0x01#8] := by decide
theorem witness_HarnessFramesValidate : (List.replicate 254 (0x7E#8 : Byte)).length ≤ 254 :=
  List.length_replicate.le
/-- T-VAL-13 and T-VAL-15. -/
theorem witness_DeclaredLengthIsOnlyChecked :
    validate (0x08#8 :: 0x01#8 :: ([0x32#8, 0x01#8, 0x02#8, 0xAA#8, 0xBB#8, 0xCC#8, 0xDD#8] ++ [0xB0#8])) = none ∧
    validate (0x03#8 :: 0x01#8 :: ([0x32#8, 0x01#8, 0x02#8, 0xAA#8, 0xBB#8, 0xCC#8, 0xDD#8] ++ [0xB5#8])) = none := by
  decide
theorem witness_BitReaderIsLsbFirst : [0x00#8, (0x04#8 : Byte)][10 / 8]? = some 0x04#8 := by decide
theorem witness_AxisInByteTerms : 15 < 16 ∧ 22 ≤ (centred.take 22).length := by decide
theorem witness_ControlDecodesThePayload_message :
    (resolving .payload [] [] false centred).params.ctrlMinBytes ≤ centred.length := by decide
theorem witness_ControlDecodesThePayload_short :
    (centred.take 23).length < (resolving .payload [] [] false (centred.take 23)).params.ctrlMinBytes := by decide
set_option maxRecDepth 4000 in
/-- T-DEC-4: pad and reserved flags set, every other bit as in the payload of zeros. -/
theorem witness_ControlIgnoresReservedBits :
    (∀ k < 178, sbit centred k = sbit (centred.take 22 ++ [0xFC#8, 0x00#8]) k) ∧
    sbit centred 184 = sbit (centred.take 22 ++ [0xFC#8, 0x00#8]) 184 ∧
    sbit centred 185 = sbit (centred.take 22 ++ [0xFC#8, 0x00#8]) 185 ∧
    (centred.length < Config.Params.default.ctrlMinBytes ↔
      (centred.take 22 ++ [0xFC#8, (0x00#8 : Byte)]).length < Config.Params.default.ctrlMinBytes) := by decide
theorem witness_DownlinkDecodesThePayload_message :
    (resolving .payload [] [] false [0x32#8, 0x01#8, 0x02#8, 0xAA#8, 0xBB#8, 0xCC#8, 0xDD#8]).tr.out =
      0x32#8 :: 0x01#8 :: 0x02#8 :: 0xAA#8 :: 0xBB#8 :: 0xCC#8 :: 0xDD#8 :: [] := by decide
theorem witness_DownlinkDecodesThePayload_short :
    [0x32#8, 0x01#8, 0x02#8, 0xAA#8, 0xBB#8, (0xCC#8 : Byte)].length < 7 := by decide
theorem witness_UnknownTypesAreReported :
    (0x02#8 : Byte) ≠ 0x00#8 ∧ (0x02#8 : Byte) ≠ 0x01#8 ∧
      resolve .default [0x01#8, 0x02#8, 0xFC#8] = .err .unknownFrameType := by decide
theorem witness_DispatchOnTheTypeByte : (0x02#8 : Byte) ≠ 0x00#8 ∧ (0x02#8 : Byte) ≠ 0x01#8 := by decide
theorem witness_ResolveInOrder : [0x01#8, (0x00#8 : Byte)].length < 3 := by decide
theorem witness_OneByteAtMostOneEvent :
    (presenting 0x7E#8 full).tr.phase = .idle ∧
      (presenting 0x7E#8 full).port = .drive false (some 0x7E#8) :: [] := by decide
theorem witness_FeedIsTheStepsOfItsBytes : full.tr.phase = .idle := by decide
/-- T-SRC-5: before the closing delimiter of a chunk. -/
theorem witness_FeedDeliversEventsOneAtATime :
    State.reset.tr.phase = .idle ∧ 11 ≤ (0x7E#8 :: downlinkCandidate ++ [0x7E#8, 0x7E#8]).length ∧
      (0x7E#8 :: downlinkCandidate ++ [0x7E#8, 0x7E#8])[11]? = some 0x7E#8 := by decide
theorem witness_FeedCompletes : full.tr.phase = .idle := by decide
theorem witness_FeedIgnoresChunkBoundaries :
    State.reset.tr.phase = .idle ∧ State.reset.fed [0x7E#8] = .next (opened []) ∧
      (opened []).fed [0x01#8] = .next (opened [0x01#8]) := ⟨rfl, rfl, rfl⟩
theorem witness_EventsAreTheCandidatesInOrder :
    State.reset.fault = .none ∧ State.reset.st = .hunt ∧ State.reset.tr.phase = .idle ∧
      State.reset.params.cap = none := by decide
theorem witness_FrameLeavesOnlyItsEvent :
    State.reset.fault = .none ∧ State.reset.st = .hunt ∧ State.reset.tr.phase = .idle ∧ State.reset.params.cap = none ∧
      0x7E#8 ∉ [0x01#8, 0x00#8, (0xFE#8 : Byte)] ∧ 3 ≤ [0x01#8, 0x00#8, (0xFE#8 : Byte)].length := by decide
theorem witness_SharedDelimiterLosesTheSecondFrame :
    State.reset.fault = .none ∧ State.reset.st = .hunt ∧ State.reset.tr.phase = .idle ∧ State.reset.params.cap = none ∧
      0x7E#8 ∉ [0x01#8, 0x00#8, (0xFE#8 : Byte)] ∧ 0x7E#8 ∉ downlinkCandidate ∧ 3 ≤ downlinkCandidate.length := by
  decide
theorem witness_FirstWholeFrameIsDelivered :
    State.reset.fault = .none ∧ State.reset.st = .hunt ∧ State.reset.tr.phase = .idle ∧ State.reset.params.cap = none ∧
      0x7E#8 ∉ [0xCC#8, 0xDD#8, (0xB0#8 : Byte)] ∧ 0x7E#8 ∉ downlinkCandidate ∧
      3 ≤ downlinkCandidate.length := by decide
theorem witness_HarnessFrameDelivers :
    mkframe 0x01#8 [0x32#8, 0x01#8, 0x02#8, 0xAA#8, 0xBB#8, 0xCC#8, 0xDD#8] =
        some (0x7E#8 :: downlinkCandidate ++ [0x7E#8]) ∧
      (0x01#8 : Byte) ≠ 0x7E#8 ∧ State.reset.fault = .none ∧ State.reset.st = .hunt ∧
      State.reset.tr.phase = .idle ∧ State.reset.params.cap = none := by decide
theorem witness_CloseIsItsOperationsInOrder :
    (opened downlinkCandidate).fault = .none ∧ (opened downlinkCandidate).port = [] ∧
      (opened downlinkCandidate).Settled := ⟨rfl, rfl, rfl⟩
theorem default_ok : Config.Params.default.ok := by
  refine ⟨?_, by decide⟩
  intro c h
  cases h
theorem alternativeB_ok : Config.Params.alternativeB.ok := by
  refine ⟨?_, by decide⟩
  intro c h
  cases h
theorem witness_StreamingFormAgrees : Config.Params.default.ok := default_ok
theorem witness_DecodersReadInsideThePayload :
    Config.Params.default.ok ∧ Config.Params.default.ctrlMinBytes ≤ centred.length := ⟨default_ok, by decide⟩
theorem witness_ResetFromAnyState :
    { stuck with port := [.drive true (some 0x7E#8)] }.port = .drive true (some 0x7E#8) :: [] := by decide
theorem witness_StoppingHoldsTheState :
    (opened [0x08#8]).Settled ∧ (opened [0x08#8]).port = [] ∧
      { opened [0x08#8] with port := [.drive false none] }.port = .drive false none :: [] := ⟨rfl, rfl, rfl⟩
theorem witness_StepKeepsTheInvariants : full.Inv ∧ step full = .next full :=
  ⟨⟨by decide, by decide, by decide, by
    intro c h
    cases h
    decide, by decide⟩, rfl⟩
theorem witness_StepsAreAtomic : (presenting 0x7E#8 .reset).Settled ∧
    step (presenting 0x7E#8 .reset) = .next (opened []) := ⟨rfl, rfl⟩
theorem witness_StepIsTotal :
    (resolving .payload [0x01#8, 0x00#8] [] false []).tr.phase = .payload ∧
      2 ≤ (resolving .payload [0x01#8, 0x00#8] [] false []).tr.cand.length := by decide
theorem witness_ParametersAndEventsStand : step (presenting 0x7E#8 .reset) = .next (opened []) := rfl

end Sys2Proof.Tests
end

namespace Sys2Proof

/-! ## The rows of level `byte` (40_assembler.md R90) -/

/-- There is room when `len(buf) < CAP`, an unbounded `CAP` included. -/
theorem hasRoom_iff (cap : Option Nat) (len : Nat) : hasRoom cap len = true ↔ ∀ c, cap = some c → len < c := by
  cases cap <;> simp [hasRoom]

theorem hasRoom_full (len : Nat) : hasRoom (some len) len = false := by simp [hasRoom]

theorem decodeInputByte_hunt_delim (len : Nat) (cap : Option Nat) :
    decodeInputByte .hunt len cap 0x7E#8 = .sync := rfl

theorem decodeInputByte_hunt_of_ne {b : Byte} (hb : b ≠ 0x7E#8) (len : Nat) (cap : Option Nat) :
    decodeInputByte .hunt len cap b = .drop b := if_neg hb

theorem decodeInputByte_opened_delim_of_le_two {len : Nat} (h : len ≤ 2) (cap : Option Nat) :
    decodeInputByte .opened len cap 0x7E#8 = .restart := if_pos (Nat.lt_succ_of_le h)

theorem decodeInputByte_opened_delim_of_three_le {len : Nat} (h : 3 ≤ len) (cap : Option Nat) :
    decodeInputByte .opened len cap 0x7E#8 = .close := if_neg (Nat.not_lt_of_le h)

/-- Any other byte of an open frame is stored if there is room for it. -/
theorem decodeInputByte_opened_of_ne {b : Byte} (hb : b ≠ 0x7E#8) (len : Nat) (cap : Option Nat) :
    decodeInputByte .opened len cap b = if hasRoom cap len then .push b else .overflow b := if_neg hb

theorem decodeInputByte_opened_of_room {b : Byte} {len : Nat} {cap : Option Nat} (hb : b ≠ 0x7E#8)
    (h : ∀ c, cap = some c → len < c) : decodeInputByte .opened len cap b = .push b := by
  rw [decodeInputByte_opened_of_ne hb, if_pos ((hasRoom_iff cap len).2 h)]

theorem decodeInputByte_opened_of_full {b : Byte} (hb : b ≠ 0x7E#8) (len : Nat) :
    decodeInputByte .opened len (some len) b = .overflow b := by
  rw [decodeInputByte_opened_of_ne hb, hasRoom_full]
  rfl

/-- At level `byte` the first byte alone names the operation. -/
theorem decode_byte_cons (st : SyncState) (len : Nat) (cap : Option Nat) (b : Byte) (rest : List Byte) :
    decode (.byte st len cap) (b :: rest) = .ok (decodeInputByte st len cap b, rest) := rfl

end Sys2Proof

namespace Sys2Proof.Machine

/-! ## What a step does with the request at the head of the port -/

/-- The request is taken where nothing goes before it: it is a reset, the block is faulted, or no resolution is in
progress (44_pipeline.md R156, 40_assembler.md R96). -/
theorem fetch_of_request_taken {s : State} {r : Request} {p : List Request} (hport : s.port = r :: p)
    (h : r.isReset = true ∨ s.fault ≠ .none ∨ s.tr.phase = .idle) : fetch s = (r.key s, { s with port := p }) := by
  simp only [fetch, hport, if_pos h]

theorem step_of_fetch_nothing {s t : State} (h : fetch s = (.nothing, t)) : step s = .next t := by
  rw [step, h, runFetched]

theorem step_of_fetch_key {s t : State} {level : Level} {bytes rest : List Byte} {i : Instr}
    (h : fetch s = (.key level bytes, t)) (hdec : decode level bytes = .ok (i, rest)) : step s = exec i t := by
  simp only [step, h, runFetched, hdec]

/-- In a faulted block a byte selects no operation, but it is consumed (40_assembler.md R90, R96). -/
theorem step_byte_of_faulted {s : State} {b : Byte} {p : List Request} (hport : s.port = .drive false (some b) :: p)
    (hfault : s.fault ≠ .none) : step s = .next { s with port := p } := by
  have hkey : (Request.drive false (some b)).key s = .nothing := if_neg hfault
  exact step_of_fetch_nothing (hkey ▸ fetch_of_request_taken hport (.inr (.inl hfault)))

/-- Otherwise the step performs the operation that the decoder reads from the byte (44_pipeline.md R151). -/
theorem step_byte_of_unfaulted {s : State} {b : Byte} {p : List Request} (hport : s.port = .drive false (some b) :: p)
    (hidle : s.tr.phase = .idle) (hfault : s.fault = .none) :
    step s = exec (decodeInputByte s.st s.buf.size s.params.cap b) { s with port := p } := by
  have hkey : (Request.drive false (some b)).key s = .key (.byte s.st s.buf.size s.params.cap) [b] := if_pos hfault
  exact step_of_fetch_key (hkey ▸ fetch_of_request_taken hport (.inr (.inr hidle))) (decode_byte_cons ..)

/-! ## The assembler's operations in an unfaulted state -/

theorem exec_sync_of_unfaulted {s : State} (h : s.fault = .none) : exec .sync s = .next (sync s) :=
  congrArg Host.Outcome.next (unlessFaulted_of_none h sync)

theorem exec_push_of_unfaulted (b : Byte) {s : State} (h : s.fault = .none) : exec (.push b) s = .next (push b s) :=
  congrArg Host.Outcome.next (unlessFaulted_of_none h (push b))

theorem exec_restart_of_unfaulted {s : State} (h : s.fault = .none) : exec .restart s = .next (restart s) :=
  congrArg Host.Outcome.next (unlessFaulted_of_none h restart)

/-! ## The statements -/

/-- The conditions of the six rows of 40_assembler.md R90 for the byte `b`, in the order SYNC, DROP, PUSH, OVERFLOW,
RESTART, CLOSE. -/
abbrev tableConditions (s : State) (b : Byte) : List Bool :=
  [decide (s.st = .hunt ∧ b = 0x7E#8), decide (s.st = .hunt ∧ b ≠ 0x7E#8),
   decide (s.st = .opened ∧ b ≠ 0x7E#8 ∧ s.params.cap ≠ some s.buf.size),
   decide (s.st = .opened ∧ b ≠ 0x7E#8 ∧ s.params.cap = some s.buf.size),
   decide (s.st = .opened ∧ b = 0x7E#8 ∧ s.buf.size ≤ 2),
   decide (s.st = .opened ∧ b = 0x7E#8 ∧ 2 < s.buf.size)]

/-- The table is total and its rows exclude each other: the rows split on `st`, on whether the byte is the delimiter, and
in OPEN on the boundary of that byte. -/
theorem tableConditions_count_true (s : State) (b : Byte) : (tableConditions s b).count true = 1 := by
  cases hst : s.st with
  | hunt => by_cases hb : b = 0x7E#8 <;> simp [tableConditions, hst, hb]
  | opened =>
    by_cases hb : b = 0x7E#8
    · by_cases hlen : s.buf.size ≤ 2
      · simp [tableConditions, hst, hb, hlen]
      · simp [tableConditions, hst, hb, Nat.lt_of_not_le hlen]
    · by_cases hcap : s.params.cap = some s.buf.size <;> simp [tableConditions, hst, hb, hcap]

/-- Settles O7: the step performs what the decoder reads from the byte, and each row of the table is one branch of the
decoder. -/
theorem byteSelectsByDecisionTable : Obligations.ByteSelectsByDecisionTable := by
  refine ⟨fun s b p hidle hport => ⟨step_byte_of_faulted hport, fun hfault => ?_⟩,
    fun s b _ => tableConditions_count_true s b⟩
  rw [step_byte_of_unfaulted hport hidle hfault]
  refine ⟨?sync, ?drop, ?push, ?overflow, ?restart, ?close⟩
  case sync => rintro hst rfl; rw [hst, decodeInputByte_hunt_delim]
  case drop => intro hst hb; rw [hst, decodeInputByte_hunt_of_ne hb]
  case push => intro hst hb hroom; rw [hst, decodeInputByte_opened_of_room hb hroom]
  case overflow => intro hst hb hfull; rw [hst, hfull, decodeInputByte_opened_of_full hb]
  case restart => rintro hst rfl hlen; rw [hst, decodeInputByte_opened_delim_of_le_two hlen]
  case close => rintro hst rfl hlen; rw [hst, decodeInputByte_opened_delim_of_three_le hlen]

/-- Settles O10, by what the buffer's append does to the sequence and to a read. -/
theorem pushAppendsOneByte : Obligations.PushAppendsOneByte := by
  refine ⟨fun len cap b hb hroom => ?_, fun b s hfault =>
    ⟨push b s, exec_push_of_unfaulted b hfault, bytes_append s.buf b, size_append s.buf b,
      fun _ ha => read_append_of_ne s.buf b ha, fun hwf => read_append_size hwf b, rfl⟩⟩
  rw [decode_byte_cons, decodeInputByte_opened_of_room hb hroom]

/-- Settles O8. -/
theorem syncOpensAnEmptyFrame : Obligations.SyncOpensAnEmptyFrame := by
  refine ⟨fun len cap => ?_, fun _ hfault => exec_sync_of_unfaulted hfault⟩
  rw [decode_byte_cons, decodeInputByte_hunt_delim]

/-- Settles O11: the key is RESTART's below three bytes and CLOSE's from three on. -/
theorem restartDiscardsAndReopens : Obligations.RestartDiscardsAndReopens := by
  refine ⟨fun len cap hlen => ?_, fun len cap hlen => ?_, fun _ hfault => exec_restart_of_unfaulted hfault⟩
  · rw [decode_byte_cons, decodeInputByte_opened_delim_of_le_two hlen]
  · rw [decode_byte_cons, decodeInputByte_opened_delim_of_three_le hlen]

end Sys2Proof.Machine

namespace Sys2Proof

/-! ## The rows of level `frame` (30_encoding.md R76) -/

theorem decodeFrameType_of_ne {t : Byte} (hcontrol : t ≠ 0x00#8) (hdownlink : t ≠ 0x01#8) :
    decodeFrameType t = .unknown t := by
  rw [decodeFrameType, if_neg hcontrol, if_neg hdownlink]

/-- At level `frame` the type byte alone names the operation. -/
theorem decode_frame_cons (t : Byte) (rest : List Byte) :
    decode .frame (t :: rest) = .ok (decodeFrameType t, rest) := rfl

end Sys2Proof

namespace Sys2Proof.Machine

/-! ## The Downlink payload (43_decoder.md R140, R141) -/

/-- The low byte first (20_memory.md R41): the high byte stands above the low one. -/
theorem littleEndian16_eq_append (lo hi : Byte) : littleEndian16 lo hi = hi ++ lo := by
  refine BitVec.eq_of_getLsbD_eq fun i hi16 => ?_
  rw [littleEndian16, BitVec.getLsbD_or, BitVec.getLsbD_shiftLeft, BitVec.getLsbD_append]
  by_cases hlow : i < 8
  · simp [hlow, hi16]
  · have habove : lo.getLsbD i = false := BitVec.getLsbD_of_ge lo i (Nat.le_of_not_lt hlow)
    simp [hlow, hi16, habove, Nat.lt_of_le_of_lt (Nat.sub_le i 8) hi16]

/-- The fields stand in the first seven bytes; what follows them is not read. -/
theorem downlinkFields_of_seven_bytes (prim lo hi d0 d1 d2 d3 : Byte) (rest : List Byte) :
    downlinkFields (prim :: lo :: hi :: d0 :: d1 :: d2 :: d3 :: rest) =
      { primitiveId := prim, appId := hi ++ lo, data := #v[d0, d1, d2, d3] } := by
  rw [← littleEndian16_eq_append]
  rfl

theorem downlinkEvent_of_lt_seven {u : List Byte} (h : u.length < 7) : downlinkEvent u = .err .shortPayload := if_pos h

theorem downlinkEvent_of_seven_le {u : List Byte} (h : 7 ≤ u.length) :
    downlinkEvent u = .downlink (downlinkFields u) := if_neg (Nat.not_lt_of_le h)

/-! ## The decoder's operations in an unfaulted state -/

theorem exec_downlink_of_unfaulted {s : State} (h : s.fault = .none) :
    exec .downlink s = .next (s.finish (downlinkEvent s.tr.out)) :=
  congrArg Host.Outcome.next (unlessFaulted_of_none h _)

theorem exec_unknown_of_unfaulted (t : Byte) {s : State} (h : s.fault = .none) :
    exec (.unknown t) s = .next (s.raiseError .unknownFrameType) :=
  congrArg Host.Outcome.next (unlessFaulted_of_none h _)

/-! ## Dispatch on the frame type (43_decoder.md R131) -/

theorem decodeMessage_control (p : Config.Params) (u : List Byte) : decodeMessage p 0x00#8 u = controlEvent p u := rfl

theorem decodeMessage_downlink (p : Config.Params) (u : List Byte) : decodeMessage p 0x01#8 u = downlinkEvent u := rfl

theorem decodeMessage_of_ne (p : Config.Params) {t : Byte} (hcontrol : t ≠ 0x00#8) (hdownlink : t ≠ 0x01#8)
    (u : List Byte) : decodeMessage p t u = .err .unknownFrameType := by
  rw [decodeMessage, if_neg hcontrol, if_neg hdownlink]

theorem resolve_of_validate_some (p : Config.Params) {c : List Byte} {k : ErrorKind} (h : validate c = some k) :
    resolve p c = .err k := by
  rw [resolve, h]

/-- UnknownFrameType is an error of the decoder alone: a check that fails reports its own error (42_validator.md R120). -/
theorem checks_pass_of_resolve_unknownFrameType {p : Config.Params} {c : List Byte}
    (h : resolve p c = .err .unknownFrameType) : chklenPasses c = true ∧ chksumPasses c = true := by
  rcases validate_cases c with ⟨_, hlen⟩ | ⟨_, _, hsum⟩ | ⟨hlen, hsum, _⟩
  · rw [resolve_of_validate_some p hlen] at h
    cases h
  · rw [resolve_of_validate_some p hsum] at h
    cases h
  · exact ⟨hlen, hsum⟩

/-! ## The statements about the decoder -/

/-- Settles O32: the two cases of the payload's length, the first with its seven bytes in hand. -/
theorem downlinkDecodesThePayload : Obligations.DownlinkDecodesThePayload := by
  intro s hfault
  rw [exec_downlink_of_unfaulted hfault]
  refine ⟨fun prim lo hi d0 d1 d2 d3 rest hout => ?_, fun hshort => ?_⟩
  · have hlen : 7 ≤ s.tr.out.length := by simp [hout]
    rw [downlinkEvent_of_seven_le hlen, hout, downlinkFields_of_seven_bytes]
    exact ⟨_, rfl, rfl, rfl, rfl⟩
  · rw [downlinkEvent_of_lt_seven hshort]
    rfl

/-- Settles O33: the key, the operation, and the checks that its event implies. -/
theorem unknownTypesAreReported : Obligations.UnknownTypesAreReported := by
  refine ⟨fun t rest hcontrol hdownlink => ?_, fun t s hfault => exec_unknown_of_unfaulted t hfault,
    fun _ _ => checks_pass_of_resolve_unknownFrameType⟩
  rw [decode_frame_cons, decodeFrameType_of_ne hcontrol hdownlink]

/-- Settles O34. -/
theorem dispatchOnTheTypeByte : Obligations.DispatchOnTheTypeByte := fun p u =>
  ⟨decodeMessage_control p u, decodeMessage_downlink p u, fun _ hcontrol hdownlink =>
    decodeMessage_of_ne p hcontrol hdownlink u⟩

end Sys2Proof.Machine

namespace Sys2Proof.Machine

/-! ## A candidate in its fields `l t r ck` (42_validator.md R121, R122, R123) -/

section
variable (l t ck : Byte) (r : List Byte)

theorem length_candidate : (l :: t :: (r ++ [ck])).length = r.length + 3 := by simp

theorem frameType_candidate : frameType (l :: t :: (r ++ [ck])) = t := rfl

theorem rawPayload_candidate : rawPayload (l :: t :: (r ++ [ck])) = r := by
  rw [rawPayload, length_candidate, Nat.add_sub_cancel]
  exact List.take_left

theorem payload_candidate : payload (l :: t :: (r ++ [ck])) = unstuff r := by rw [payload, rawPayload_candidate]

theorem checksumSum_candidate :
    checksumSum (l :: t :: (r ++ [ck])) = l.toNat + t.toNat + (r.map BitVec.toNat).sum + ck.toNat := by
  simp [checksumSum, Nat.add_assoc]

/-- CHKLEN refuses a declared length of 0, and one that exceeds the type byte and the raw payload together. -/
theorem chklenPasses_candidate_eq_false_iff :
    chklenPasses (l :: t :: (r ++ [ck])) = false ↔ l = 0x00#8 ∨ r.length + 1 < l.toNat := by
  have hlength : declaredLength (l :: t :: (r ++ [ck])) = l := rfl
  have hmin : Config.minCand ≤ r.length + 3 := Nat.le_add_left ..
  have hrest : r.length + 3 - 2 = r.length + 1 := rfl
  rw [chklenPasses, hlength, length_candidate, decide_eq_true hmin, hrest]
  by_cases hzero : l = 0x00#8 <;> simp [hzero]

end

theorem chklenPasses_of_length_lt_three {c : List Byte} (h : c.length < 3) : chklenPasses c = false := by
  rw [chklenPasses, decide_eq_false (Nat.not_le_of_lt h), Bool.false_and, Bool.false_and]

theorem chksumPasses_eq_false_iff (c : List Byte) : chksumPasses c = false ↔ checksumSum c % 255 ≠ 0 :=
  beq_eq_false_iff_ne

theorem resolve_of_validate_none (p : Config.Params) {c : List Byte} (h : validate c = none) :
    resolve p c = decodeMessage p (frameType c) (payload c) := by
  rw [resolve, h]

theorem resolve_of_chklenPasses_eq_false (p : Config.Params) {c : List Byte} (h : chklenPasses c = false) :
    resolve p c = .err .lengthMismatch := by
  refine resolve_of_validate_some p ?_
  rw [validate, h]
  rfl

/-- Settles O35: the rule's order is the order of the outcomes of `validate`, then of the dispatch on the type byte. -/
theorem resolveInOrder : Obligations.ResolveInOrder := by
  refine ⟨fun p c hshort => resolve_of_chklenPasses_eq_false p (chklenPasses_of_length_lt_three hshort),
    fun p l t ck r => ?_⟩
  rw [← checksumSum_candidate]
  simp only [← chklenPasses_candidate_eq_false_iff l t ck r, ← chksumPasses_eq_false_iff]
  rcases validate_cases (l :: t :: (r ++ [ck])) with ⟨hlen, _⟩ | ⟨hlen, hsum, hval⟩ | ⟨hlen, hsum, hval⟩
  · rw [resolve_of_chklenPasses_eq_false p hlen, if_pos hlen]
  · rw [resolve_of_validate_some p hval, if_neg (by simp [hlen]), if_pos hsum]
  · rw [resolve_of_validate_none p hval, frameType_candidate, payload_candidate, if_neg (by simp [hlen]),
      if_neg (by simp [hsum])]
    by_cases hcontrol : t = 0x00#8
    · rw [if_pos hcontrol, hcontrol, decodeMessage_control, controlEvent]
    by_cases hdownlink : t = 0x01#8
    · rw [if_neg hcontrol, if_pos hdownlink, hdownlink, decodeMessage_downlink, downlinkEvent]
    · rw [if_neg hcontrol, if_neg hdownlink, decodeMessage_of_ne p hcontrol hdownlink]

/-! ## The event of a byte's step (44_pipeline.md R151) -/

theorem stepEvent_of_faulted {s : State} (h : s.fault ≠ .none) (b : Byte) : stepEvent s b = none :=
  if_neg fun hclose => h hclose.1

theorem stepEvent_hunt {s : State} (h : s.st = .hunt) (b : Byte) : stepEvent s b = none := by simp [stepEvent, h]

theorem stepEvent_of_ne (s : State) {b : Byte} (h : b ≠ Config.delim) : stepEvent s b = none := by simp [stepEvent, h]

theorem stepEvent_of_size_lt_three {s : State} (h : s.buf.size < 3) (b : Byte) : stepEvent s b = none := by
  simp [stepEvent, h]

theorem stepEvent_close {s : State} (hfault : s.fault = .none) (hst : s.st = .opened) (hsize : 3 ≤ s.buf.size) :
    stepEvent s Config.delim = some (resolve s.params s.buf.bytes) := if_pos ⟨hfault, hst, rfl, hsize⟩

/-- CLOSE alone writes to the sink. -/
theorem stepByte_sink (s : State) (b : Byte) : (stepByte s b).sink = s.sink ++ (stepEvent s b).toList := by
  by_cases hfault : s.fault = .none
  · rw [stepByte, unlessFaulted_of_none hfault]
    rcases performByte_cases b s with ⟨hst, _, h⟩ | ⟨hst, _, h⟩ | ⟨_, _, hsize, h⟩ | ⟨hst, rfl, hsize, h⟩ |
      ⟨_, hb, _, h⟩ | ⟨_, hb, _, h⟩ <;> rw [h]
    · simp [stepEvent_hunt hst]
    · simp [stepEvent_hunt hst]
    · simp [stepEvent_of_size_lt_three hsize]
    · simp [stepEvent_close hfault hst hsize]
    · simp [stepEvent_of_ne s hb]
    · simp [stepEvent_of_ne s hb]
  · rw [stepByte, unlessFaulted_of_fault hfault, stepEvent_of_faulted hfault, Option.toList_none, List.append_nil]

/-! ## The machine's step on an input byte, alone or first in a chunk (44_pipeline.md R151, R153) -/

/-- The operation that the decision table selects for a byte does what `stepByte` does (40_assembler.md R90). -/
theorem exec_decodeInputByte (s : State) (b : Byte) :
    exec (decodeInputByte s.st s.buf.size s.params.cap b) s = .next (stepByte s b) := by
  rw [stepByte, State.unlessFaulted]
  rcases performByte_cases b s with ⟨hst, rfl, h⟩ | ⟨hst, hb, h⟩ | ⟨hst, rfl, hsize, h⟩ | ⟨hst, rfl, hsize, h⟩ |
    ⟨hst, hb, hroom, h⟩ | ⟨hst, hb, hroom, h⟩ <;> rw [h, hst]
  · rw [decodeInputByte_hunt_delim]; rfl
  · rw [decodeInputByte_hunt_of_ne hb, ite_self]; rfl
  · rw [decodeInputByte_opened_delim_of_le_two (Nat.le_of_lt_succ hsize)]; rfl
  · rw [decodeInputByte_opened_delim_of_three_le hsize]; rfl
  · rw [decodeInputByte_opened_of_ne hb, hroom]; rfl
  · rw [decodeInputByte_opened_of_ne hb, hroom]; rfl

theorem step_drive_byte {s : State} (hidle : s.tr.phase = .idle) (b : Byte) (p : List Request) :
    step { s with port := .drive false (some b) :: p } = .next { stepByte s b with port := p } := by
  by_cases hfault : s.fault = .none
  · calc step { s with port := .drive false (some b) :: p }
      _ = exec (decodeInputByte s.st s.buf.size s.params.cap b) { s with port := p } :=
        step_byte_of_unfaulted (s := { s with port := .drive false (some b) :: p }) rfl hidle hfault
      _ = .next (stepByte { s with port := p } b) := exec_decodeInputByte { s with port := p } b
      _ = .next { stepByte s b with port := p } := by rw [stepByte_setPort]
  · rw [stepByte, unlessFaulted_of_fault hfault]
    exact step_byte_of_faulted (s := { s with port := .drive false (some b) :: p }) rfl hfault

theorem step_feed_cons {s : State} (hidle : s.tr.phase = .idle) (b : Byte) (rest : List Byte) (p : List Request) :
    step { s with port := pendFeed (b :: rest) p } = .next { stepByte s b with port := pendFeed rest p } := by
  have hfetch : fetch { s with port := pendFeed (b :: rest) p } =
      (.key (.host false) (b :: rest), { s with port := p }) :=
    fetch_of_request_taken (s := { s with port := pendFeed (b :: rest) p }) rfl (.inr (.inr hidle))
  calc step { s with port := pendFeed (b :: rest) p }
    _ = exec (.feed (b :: rest)) { s with port := p } := step_of_fetch_key (rest := []) hfetch rfl
    _ = .next { stepByte { s with port := p } b with port := pendFeed rest p } := rfl
    _ = .next { stepByte s b with port := pendFeed rest p } := by rw [stepByte_setPort]

/-! ## A run over a chunk (44_pipeline.md R153) -/

/-- A way to present a chunk at the port, of which every step consumes the first byte. -/
def ConsumedByteByByte (present : List Byte → List Request) : Prop :=
  ∀ (s : State) (b : Byte) (rest : List Byte), s.tr.phase = .idle →
    step { s with port := present (b :: rest) } = .next { stepByte s b with port := present rest }

/-- The bytes of a chunk as one transaction each, before the requests `p`. -/
abbrev presentEach (p : List Request) (chunk : List Byte) : List Request :=
  chunk.map (fun b => .drive false (some b)) ++ p

theorem pendFeed_consumedByteByByte (p : List Request) : ConsumedByteByByte fun chunk => pendFeed chunk p :=
  fun _ b rest hidle => step_feed_cons hidle b rest p

theorem presentEach_consumedByteByByte (p : List Request) : ConsumedByteByByte (presentEach p) :=
  fun _ b rest hidle => step_drive_byte hidle b (presentEach p rest)

/-- One step for each byte of a chunk presented so ends where R153's recursion ends, with the port as it was before. -/
theorem run_presented {present : List Byte → List Request} (hpresent : ConsumedByteByByte present)
    (chunk : List Byte) {s : State} (hidle : s.tr.phase = .idle) (hport : present [] = s.port) :
    core.run chunk.length { s with port := present chunk } = .next (feedBytes s chunk) := by
  induction chunk generalizing s with
  | nil => rw [hport]; rfl
  | cons b rest ih =>
    have hidle' : (stepByte s b).tr.phase = .idle := by rw [stepByte_tr, hidle]
    have hport' : present [] = (stepByte s b).port := by rw [stepByte_port, hport]
    calc core.run (rest.length + 1) { s with port := present (b :: rest) }
      _ = core.run rest.length { stepByte s b with port := present rest } :=
        run_succ_of_next (hpresent s b rest hidle) rest.length
      _ = .next (feedBytes (stepByte s b) rest) := ih hidle' hport'

/-- Settles O38: the chunk at the port and its bytes one by one are two ways to present it, each consumed a byte a
step. -/
theorem feedIsTheStepsOfItsBytes : Obligations.FeedIsTheStepsOfItsBytes :=
  ⟨fun s => ⟨rfl, feedBytes_nil s⟩, feedBytes_cons, stepByte_sink, fun s chunk hidle =>
    ⟨run_presented (pendFeed_consumedByteByByte s.port) chunk hidle rfl,
     run_presented (presentEach_consumedByteByByte s.port) chunk hidle rfl⟩⟩

end Sys2Proof.Machine

namespace Sys2Proof

/-! ## The decoder and the encoder as inverses (30_encoding.md R79) -/

/-- An operation is decoded from an input byte exactly when its row is offered, its operand is one the row may carry,
and the byte is its encoding. -/
theorem decodeInputByte_eq_iff (st : SyncState) (len : Nat) (cap : Option Nat) (b : Byte) (i : Instr) :
    decodeInputByte st len cap b = i ↔ i.wf = true ∧ i.offeredAt (.byte st len cap) = true ∧ encode i = [b] := by
  constructor
  · rintro rfl
    by_cases hb : b = Config.delim
    · subst hb
      cases st with
      | hunt => exact ⟨rfl, rfl, rfl⟩
      | opened =>
        by_cases hlen : len ≤ 2
        · rw [decodeInputByte_opened_delim_of_le_two hlen]
          exact ⟨rfl, decide_eq_true (Nat.lt_succ_of_le hlen), rfl⟩
        · rw [decodeInputByte_opened_delim_of_three_le (Nat.lt_of_not_le hlen)]
          exact ⟨rfl, decide_eq_true (Nat.lt_of_not_le hlen), rfl⟩
    · cases st with
      | hunt => rw [decodeInputByte_hunt_of_ne hb]; exact ⟨bne_iff_ne.2 hb, rfl, rfl⟩
      | opened =>
        rw [decodeInputByte_opened_of_ne hb]
        cases hroom : hasRoom cap len
        · exact ⟨bne_iff_ne.2 hb, by simp [Instr.offeredAt, hroom], rfl⟩
        · exact ⟨bne_iff_ne.2 hb, hroom, rfl⟩
  · rintro ⟨hwf, hoffered, hbyte⟩
    cases i <;> cases st <;> simp only [Instr.offeredAt, Instr.wf, encode, Bool.false_eq_true, List.cons.injEq,
      and_true, bne_iff_ne, decide_eq_true_eq, Bool.not_eq_true'] at hoffered hwf hbyte <;> subst hbyte
    case sync.hunt => rfl
    case drop.hunt => exact decodeInputByte_hunt_of_ne hwf len cap
    case restart.opened => exact decodeInputByte_opened_delim_of_le_two (Nat.le_of_lt_succ hoffered) cap
    case close.opened => exact decodeInputByte_opened_delim_of_three_le hoffered cap
    case push.opened => rw [decodeInputByte_opened_of_ne hwf, hoffered]; rfl
    case overflow.opened => rw [decodeInputByte_opened_of_ne hwf, hoffered]; rfl

theorem decodeRawByte_eq_iff (b : Byte) (i : Instr) :
    decodeRawByte b = i ↔ i.wf = true ∧ i.offeredAt .unstuffer = true ∧ encode i = [b] := by
  constructor
  · rintro rfl
    by_cases hb : b = Config.esc
    · subst hb; exact ⟨rfl, rfl, rfl⟩
    · rw [decodeRawByte, if_neg hb]; exact ⟨bne_iff_ne.2 hb, rfl, rfl⟩
  · rintro ⟨hwf, hoffered, hbyte⟩
    cases i <;> simp only [Instr.offeredAt, Bool.false_eq_true] at hoffered <;> cases hbyte
    case unstuffEsc.refl => rfl
    case unstuffPlain.refl => exact if_neg (bne_iff_ne.1 hwf)

theorem decodeFrameType_eq_iff (t : Byte) (i : Instr) :
    decodeFrameType t = i ↔ i.wf = true ∧ i.offeredAt .frame = true ∧ encode i = [t] := by
  constructor
  · rintro rfl
    by_cases hcontrol : t = 0x00#8
    · subst hcontrol; exact ⟨rfl, rfl, rfl⟩
    by_cases hdownlink : t = 0x01#8
    · subst hdownlink; exact ⟨rfl, rfl, rfl⟩
    · rw [decodeFrameType_of_ne hcontrol hdownlink]
      exact ⟨by simp [Instr.wf, hcontrol, hdownlink], rfl, rfl⟩
  · rintro ⟨hwf, hoffered, hbyte⟩
    cases i <;> simp only [Instr.offeredAt, Bool.false_eq_true] at hoffered <;> cases hbyte
    case control.refl => rfl
    case downlink.refl => rfl
    case unknown.refl =>
      rw [Instr.wf, Bool.and_eq_true, bne_iff_ne, bne_iff_ne] at hwf
      exact decodeFrameType_of_ne hwf.1 hwf.2

/-- Whether the operations of a level are keyed on one byte (30_encoding.md R79). -/
def Level.keyed : Level → Bool
  | .byte _ _ _ | .unstuffer | .frame => true
  | .validator _ | .host _ => false

theorem exists_key_of_offeredAt {i : Instr} {level : Level} (hkeyed : level.keyed = true)
    (hoffered : i.offeredAt level = true) : ∃ k, encode i = [k] := by
  cases i
  case chklen | chksum | feed | reset => cases level <;> simp [Instr.offeredAt, Level.keyed] at hoffered hkeyed
  all_goals exact ⟨_, rfl⟩

/-- At a level whose operations are keyed the first byte alone names the operation. -/
theorem decode_keyed_eq_iff {level : Level} (hkeyed : level.keyed = true) (k : Byte) (bytes : List Byte) (i : Instr)
    (rest : List Byte) :
    decode level (k :: bytes) = .ok (i, rest) ↔
      (i.wf = true ∧ i.offeredAt level = true ∧ encode i = [k]) ∧ bytes = rest := by
  cases level with
  | byte st len cap => rw [decode_byte_cons, Except.ok.injEq, Prod.mk.injEq, decodeInputByte_eq_iff]
  | unstuffer => rw [decode, Except.ok.injEq, Prod.mk.injEq, decodeRawByte_eq_iff]
  | frame => rw [decode_frame_cons, Except.ok.injEq, Prod.mk.injEq, decodeFrameType_eq_iff]
  | validator | host => cases hkeyed

theorem decode_keyed_nil {level : Level} (hkeyed : level.keyed = true) (r : Instr × List Byte) :
    decode level [] ≠ .ok r := by
  cases level with
  | byte | unstuffer | frame => exact fun h => Except.noConfusion rfl rfl (heq_of_eq h)
  | validator | host => cases hkeyed

/-- Settles O2: at a keyed level by the equivalence for the key byte, at the others row by row. -/
theorem decodeOfEncode : Obligations.DecodeOfEncode := by
  intro i level rest hwf hoffered hchunk
  by_cases hkeyed : level.keyed = true
  · obtain ⟨k, hk⟩ := exists_key_of_offeredAt hkeyed hoffered
    rw [hk]
    exact (decode_keyed_eq_iff hkeyed k rest i rest).2 ⟨⟨hwf, hoffered, hk⟩, rfl⟩
  · cases level with
    | byte | unstuffer | frame => exact absurd rfl hkeyed
    | validator lenPassed => cases lenPassed <;> cases i <;> cases hoffered <;> rfl
    | host rst =>
      cases rst <;> cases i <;> cases hoffered
      case false.feed.refl chunk => rw [hchunk chunk rfl]; simp [decode, encode]
      case true.reset.refl => rfl

/-- Settles O3, by the same equivalence. -/
theorem encodeOfDecode : Obligations.EncodeOfDecode := by
  intro level bytes i rest h
  by_cases hkeyed : level.keyed = true
  · cases bytes with
    | nil => exact absurd h (decode_keyed_nil hkeyed _)
    | cons k bytes =>
      obtain ⟨⟨hwf, hoffered, hk⟩, rfl⟩ := (decode_keyed_eq_iff hkeyed k bytes i rest).1 h
      exact ⟨by rw [hk]; rfl, hwf, hoffered⟩
  · cases level with
    | byte | unstuffer | frame => exact absurd rfl hkeyed
    | validator lenPassed => cases lenPassed <;> cases h <;> exact ⟨rfl, rfl, rfl⟩
    | host rst => cases rst <;> cases h <;> exact ⟨by simp [encode], rfl, rfl⟩

/-! ## Rows and priorities (30_encoding.md R79) -/

/-- A row is keyed on the whole byte or is a catch-all. -/
theorem covers_iff (i : Instr) (k : Byte) : i.row.covers k = true ↔ i.row.mask = 0x00#8 ∨ k = i.row.pattern := by
  have hwhole : k &&& 0xFF#8 = k := BitVec.and_allOnes
  cases i <;> simp [Instr.row, OpcodeRow.covers, hwhole]

theorem priority_le_two (i : Instr) : i.row.priority ≤ 2 := by cases i <;> simp [Instr.row]

/-- Among the keyed rows the catch-alls have the greatest priority number. -/
theorem priority_of_catchAll {i : Instr} {level : Level} (hkeyed : level.keyed = true)
    (hoffered : i.offeredAt level = true) (hmask : i.row.mask = 0x00#8) : i.row.priority = 2 := by
  cases i
  case chklen | feed | reset => cases level <;> simp [Instr.offeredAt, Level.keyed] at hoffered hkeyed
  case drop | push | overflow | unstuffPlain | chksum | unknown => rfl
  all_goals exact absurd hmask (by decide)

/-- A row that is no catch-all has its pattern as its one encoding. -/
theorem encode_of_mask_ne_zero {i : Instr} (hmask : i.row.mask ≠ 0x00#8) :
    i.wf = true ∧ encode i = [i.row.pattern] := by
  cases i
  case sync | restart | close | unstuffEsc | control | downlink => exact ⟨rfl, rfl⟩
  all_goals exact absurd rfl hmask

/-- The operation decoded from a key has no greater priority number than any row offered that matches the key: a row
keyed on the whole byte has no other encoding, so it is the one decoded; and a catch-all is tried last. -/
theorem priority_le_of_covers {level : Level} {k : Byte} {i j : Instr} (hkeyed : level.keyed = true)
    (hi : i.wf = true ∧ i.offeredAt level = true ∧ encode i = [k]) (hj : j.offeredAt level = true)
    (hcovers : j.row.covers k = true) : i.row.priority ≤ j.row.priority := by
  by_cases hmask : j.row.mask = 0x00#8
  · rw [priority_of_catchAll hkeyed hj hmask]
    exact priority_le_two i
  · obtain ⟨hwf, hencode⟩ := encode_of_mask_ne_zero hmask
    have hk : k = j.row.pattern := ((covers_iff j k).1 hcovers).resolve_left hmask
    have hdecode_i := (decode_keyed_eq_iff hkeyed k [] i []).2 ⟨hi, rfl⟩
    have hdecode_j := (decode_keyed_eq_iff hkeyed k [] j []).2 ⟨⟨hwf, hj, hk ▸ hencode⟩, rfl⟩
    have hij : i = j := congrArg Prod.fst (Except.ok.inj (hdecode_i.symm.trans hdecode_j))
    rw [hij]

/-- The byte that an operation is encoded by matches its row. -/
theorem covers_of_encode {i : Instr} {k : Byte} (hk : encode i = [k]) : i.row.covers k = true := by
  by_cases hmask : i.row.mask = 0x00#8
  · exact (covers_iff i k).2 (.inl hmask)
  · rw [(encode_of_mask_ne_zero hmask).2] at hk
    exact (covers_iff i k).2 (.inr (List.singleton_inj.1 hk).symm)

/-- A level without a key offers the rows of one kind, catch-alls of one priority. -/
theorem row_of_keyless {i : Instr} {level : Level} (hkeyless : level.keyed = false)
    (hoffered : i.offeredAt level = true) :
    i.row = ⟨0x00#8, 0x00#8, if level = .validator true then 2 else 1⟩ := by
  cases level with
  | byte | unstuffer | frame => cases hkeyless
  | validator lenPassed => cases lenPassed <;> cases i <;> cases hoffered <;> rfl
  | host rst => cases rst <;> cases i <;> cases hoffered <;> rfl

/-- Settles O4: at a keyed level by the priorities of the rows that match; each other level offers one row. -/
theorem decodeTakesRowsByPriority : Obligations.DecodeTakesRowsByPriority := by
  intro level k bytes i rest h
  cases hkeyed : level.keyed with
  | true =>
    have hi := ((decode_keyed_eq_iff hkeyed k bytes i rest).1 h).1
    exact ⟨beq_iff_eq.1 (covers_of_encode hi.2.2), fun j _ hj hcovers => priority_le_of_covers hkeyed hi hj hcovers⟩
  | false =>
    obtain ⟨-, -, hi⟩ := encodeOfDecode level (k :: bytes) i rest h
    have hrow := row_of_keyless hkeyed hi
    refine ⟨by simp [hrow], fun j _ hj _ => ?_⟩
    rw [hrow, row_of_keyless hkeyed hj]

/-- Settles O1: the key bytes of the opcode table, one for each keyed row. -/
theorem tableKeysDecode : Obligations.TableKeysDecode :=
  ⟨rfl, rfl, rfl, rfl, rfl, rfl, rfl, rfl, rfl, rfl, rfl⟩

end Sys2Proof

namespace Sys2Proof.Machine

/-! ## The operations in an unfaulted state -/

theorem exec_close_of_unfaulted {s : State} (h : s.fault = .none) : exec .close s = .next (close s) :=
  congrArg Host.Outcome.next (unlessFaulted_of_none h close)

theorem exec_overflow_of_unfaulted (b : Byte) {s : State} (h : s.fault = .none) :
    exec (.overflow b) s = .next (markOverflow s) :=
  congrArg Host.Outcome.next (unlessFaulted_of_none h markOverflow)

theorem exec_unstuffEsc_of_unfaulted {s : State} (h : s.fault = .none) : exec .unstuffEsc s = .next (markEscape s) :=
  congrArg Host.Outcome.next (unlessFaulted_of_none h markEscape)

theorem exec_unstuffPlain_of_unfaulted (b : Byte) {s : State} (h : s.fault = .none) :
    exec (.unstuffPlain b) s = .next (outputRaw b s) :=
  congrArg Host.Outcome.next (unlessFaulted_of_none h (outputRaw b))

theorem exec_chklen_of_unfaulted {s : State} (h : s.fault = .none) : exec .chklen s = .next (checkLength s) :=
  congrArg Host.Outcome.next (unlessFaulted_of_none h checkLength)

theorem exec_chksum_of_unfaulted {s : State} (h : s.fault = .none) : exec .chksum s = .next (checkSum s) :=
  congrArg Host.Outcome.next (unlessFaulted_of_none h checkSum)

theorem exec_control_of_unfaulted {s : State} (h : s.fault = .none) :
    exec .control s = .next (s.finish (controlEvent s.params s.tr.out)) :=
  congrArg Host.Outcome.next (unlessFaulted_of_none h _)

/-- Settles O9. -/
theorem dropLeavesTheState : Obligations.DropLeavesTheState := fun _ _ => rfl

/-- Settles O12. -/
theorem closeResolvesTheCandidate : Obligations.CloseResolvesTheCandidate := fun _ hfault =>
  exec_close_of_unfaulted hfault

/-- Settles O13. -/
theorem overflowOnlyMarksTheBlock : Obligations.OverflowOnlyMarksTheBlock := fun b _ hfault =>
  exec_overflow_of_unfaulted b hfault

/-- An XOR with the mask of the unstuffer's flag is an XOR where the flag is set. -/
theorem xor_escMask (b : Byte) (esc : Bool) :
    (b ^^^ if esc then Config.escXor else 0x00#8) = if esc then b ^^^ 0x20#8 else b := by
  cases esc <;> simp

/-- Settles O20. -/
theorem unstuffOperationsRun : Obligations.UnstuffOperationsRun := by
  intro s b hfault
  refine ⟨exec_unstuffEsc_of_unfaulted hfault, ?_⟩
  rw [exec_unstuffPlain_of_unfaulted b hfault, outputRaw, xor_escMask]

/-! ## The two checks (42_validator.md R122, R123) -/

/-- CHKLEN on a candidate written as its first byte and the rest. -/
theorem chklenPasses_cons_iff (l : Byte) (rest : List Byte) :
    chklenPasses (l :: rest) = true ↔ 2 ≤ rest.length ∧ l ≠ 0x00#8 ∧ l.toNat < rest.length := by
  have hlength : declaredLength (l :: rest) = l := rfl
  have hmin : Config.minCand = 3 := rfl
  rw [chklenPasses, hlength, hmin, List.length_cons, Bool.and_eq_true, Bool.and_eq_true, decide_eq_true_eq, bne_iff_ne,
    decide_eq_true_eq, and_assoc]
  exact ⟨fun ⟨hthree, hzero, hle⟩ => ⟨by omega, hzero, by omega⟩,
    fun ⟨htwo, hzero, hlt⟩ => ⟨by omega, hzero, by omega⟩⟩

/-- Settles O21, by the two outcomes of CHKLEN. -/
theorem chklenComparesTheDeclaredLength : Obligations.ChklenComparesTheDeclaredLength := by
  intro s hfault
  rw [exec_chklen_of_unfaulted hfault]
  refine ⟨fun l rest hcand => ?_, fun hcand => ?_⟩
  · simp only [← chklenPasses_cons_iff, ← hcand]
    rcases checkLength_cases s with ⟨hpass, h⟩ | ⟨hfail, h⟩ <;> rw [h]
    · rw [if_pos hpass]; rfl
    · rw [if_neg (Bool.eq_false_iff.1 hfail)]; rfl
  · rw [checkLength, hcand, chklenPasses_of_length_lt_three (c := []) (by decide)]
    rfl

theorem chksumPasses_iff (c : List Byte) : chksumPasses c = true ↔ checksumSum c % 255 = 0 := beq_iff_eq

/-- The raw payload is the candidate without its first two bytes and its last (41_unstuffer.md R113). -/
theorem rawPayload_eq_dropLast (c : List Byte) : rawPayload c = (c.drop 2).dropLast := by
  rw [rawPayload, List.dropLast_eq_take, List.length_drop, Nat.sub_sub]

/-- Settles O22, by the two outcomes of CHKSUM. -/
theorem chksumSumsEveryByte : Obligations.ChksumSumsEveryByte := by
  intro s hfault
  have hsum : (s.tr.cand.map BitVec.toNat).sum = checksumSum s.tr.cand := rfl
  rw [exec_chksum_of_unfaulted hfault, ← rawPayload_eq_dropLast]
  simp only [hsum, ← chksumPasses_iff]
  rcases checkSum_cases s with ⟨hpass, h⟩ | ⟨hfail, h⟩ <;> rw [h]
  · rw [if_pos hpass]; rfl
  · rw [if_neg (Bool.eq_false_iff.1 hfail)]; rfl

end Sys2Proof.Machine

namespace Sys2Proof

/-- The operations of a resolution, which act on its transients (44_pipeline.md R152). -/
def Instr.isResolution : Instr → Bool
  | .unstuffEsc | .unstuffPlain _ | .chklen | .chksum | .control | .downlink | .unknown _ => true
  | .sync | .drop _ | .restart | .close | .push _ | .overflow _ | .feed _ | .reset => false

theorem isResolution_decodeRawByte (b : Byte) : (decodeRawByte b).isResolution = true := by
  unfold decodeRawByte
  split <;> rfl

theorem isResolution_decodeFrameType (t : Byte) : (decodeFrameType t).isResolution = true := by
  unfold decodeFrameType
  split
  · rfl
  · split <;> rfl

end Sys2Proof

namespace Sys2Proof.Machine

/-! ## What an operation leaves unchanged -/

/-- At most the transients differ, and the sink by events added (10_state.md R27). -/
def OnlyResolves (s t : State) : Prop := ∃ tr events, t = { s with tr := tr, sink := s.sink ++ events }

theorem onlyResolves_tr (s : State) (tr : Transients) : OnlyResolves s { s with tr := tr } :=
  ⟨tr, [], by rw [List.append_nil]⟩

theorem onlyResolves_finish (s : State) (e : Event) : OnlyResolves s (s.finish e) := ⟨.none, [e], rfl⟩

theorem onlyResolves_checkLength (s : State) : OnlyResolves s (checkLength s) := by
  rcases checkLength_cases s with ⟨_, h⟩ | ⟨_, h⟩ <;> rw [h]
  exacts [onlyResolves_tr s _, onlyResolves_finish s _]

theorem onlyResolves_checkSum (s : State) : OnlyResolves s (checkSum s) := by
  rcases checkSum_cases s with ⟨_, h⟩ | ⟨_, h⟩ <;> rw [h]
  exacts [onlyResolves_tr s _, onlyResolves_finish s _]

/-- The frame of the unstuffer's, the validator's and the decoder's operations. -/
theorem exec_onlyResolves {i : Instr} (hi : i.isResolution = true) (s : State) :
    ∃ t, exec i s = .next t ∧ OnlyResolves s t := by
  have hguard (f : State → State) (hf : OnlyResolves s (f s)) : OnlyResolves s (s.unlessFaulted f) :=
    unlessFaulted_keeps (onlyResolves_tr s s.tr) fun _ => hf
  cases i with
  | unstuffEsc => exact ⟨_, rfl, hguard _ (onlyResolves_tr s _)⟩
  | unstuffPlain b => exact ⟨_, rfl, hguard _ (onlyResolves_tr s _)⟩
  | chklen => exact ⟨_, rfl, hguard _ (onlyResolves_checkLength s)⟩
  | chksum => exact ⟨_, rfl, hguard _ (onlyResolves_checkSum s)⟩
  | control => exact ⟨_, rfl, hguard _ (onlyResolves_finish s _)⟩
  | downlink => exact ⟨_, rfl, hguard _ (onlyResolves_finish s _)⟩
  | unknown t => exact ⟨_, rfl, hguard _ (onlyResolves_finish s _)⟩
  | sync | drop | restart | close | push | overflow | feed | reset => cases hi

/-- Settles O15, by the frame of these operations. -/
theorem onlyTheAssemblerWritesItsState : Obligations.OnlyTheAssemblerWritesItsState := by
  intro i s t hi h
  have hres : i.isResolution = true := by
    cases i with
    | unstuffEsc | unstuffPlain | chklen | chksum | control | downlink | unknown => rfl
    | sync | drop | restart | close | push | overflow | feed | reset => cases hi
  obtain ⟨t', ht', tr, events, rfl⟩ := exec_onlyResolves hres s
  cases h.symm.trans ht'
  exact ⟨rfl, fun _ => rfl, rfl, rfl, rfl, rfl⟩

/-! ## The faulted block (40_assembler.md R96) -/

theorem stepByte_of_faulted {s : State} (h : s.fault ≠ .none) (b : Byte) : stepByte s b = s :=
  unlessFaulted_of_fault h _

/-- Only RESET and FEED do anything in a faulted state. -/
theorem exec_of_faulted {s : State} (h : s.fault ≠ .none) {i : Instr} (hreset : i ≠ .reset)
    (hfeed : ∀ chunk, i ≠ .feed chunk) : exec i s = .next s := by
  cases i with
  | drop b => rfl
  | feed chunk => exact absurd rfl (hfeed chunk)
  | reset => exact absurd rfl hreset
  | sync | restart | close | push | overflow | unstuffEsc | unstuffPlain | chklen | chksum | control | downlink
  | unknown => exact congrArg Host.Outcome.next (unlessFaulted_of_fault h _)

theorem exec_feed_of_faulted {s : State} (h : s.fault ≠ .none) (chunk : List Byte) :
    exec (.feed chunk) s = .next { s with port := pendFeed chunk.tail s.port } := by
  cases chunk with
  | nil => rfl
  | cons b rest =>
    have hstep : exec (.feed (b :: rest)) s = .next { stepByte s b with port := pendFeed rest s.port } := rfl
    rw [hstep, stepByte_of_faulted h, List.tail_cons]

/-! ## A step on each kind of request -/

/-- A reset wins over everything, and the transaction is used up (44_pipeline.md R156). -/
theorem step_drive_reset {s : State} {b : Option Byte} {p : List Request} (hport : s.port = .drive true b :: p) :
    step s = exec .reset { s with port := p } :=
  step_of_fetch_key (rest := []) (fetch_of_request_taken hport (.inl rfl)) rfl

theorem step_drive_none {s : State} {p : List Request} (hport : s.port = .drive false none :: p)
    (h : s.fault ≠ .none ∨ s.tr.phase = .idle) : step s = .next { s with port := p } :=
  step_of_fetch_nothing (fetch_of_request_taken hport (.inr h))

theorem step_feed {s : State} {chunk : List Byte} {p : List Request} (hport : s.port = .feed chunk :: p)
    (h : s.fault ≠ .none ∨ s.tr.phase = .idle) : step s = exec (.feed chunk) { s with port := p } :=
  step_of_fetch_key (rest := []) (fetch_of_request_taken hport (.inr h)) rfl

/-- With nothing presented and no resolution to go on with nothing happens (44_pipeline.md R150, R155). -/
theorem step_of_port_nil {s : State} (hport : s.port = []) (h : s.fault ≠ .none ∨ s.tr.phase = .idle) :
    step s = .next s := by
  refine step_of_fetch_nothing ?_
  by_cases hfault : s.fault = .none
  · simp only [fetch, hport, if_pos hfault, fetchResolution, h.resolve_left (not_not_intro hfault)]
  · simp only [fetch, hport, if_neg hfault]

/-- Settles O14. -/
theorem faultedBlockIsStuck : Obligations.FaultedBlockIsStuck := by
  intro s hfault
  refine ⟨fun i hreset hfeed => exec_of_faulted hfault hreset hfeed, exec_feed_of_faulted hfault,
    fun hport => step_of_port_nil hport (.inl hfault), fun b p hport => ?_, fun chunk p hport => ?_⟩
  · cases b with
    | none => exact step_drive_none hport (.inl hfault)
    | some b => exact step_byte_of_faulted hport hfault
  · rw [step_feed hport (.inl hfault)]
    exact exec_feed_of_faulted (s := { s with port := p }) hfault chunk

/-- Settles O50. -/
theorem resetFromAnyState : Obligations.ResetFromAnyState := fun _ => ⟨rfl, fun _ _ hport => step_drive_reset hport⟩

/-- Settles O51. -/
theorem stoppingHoldsTheState : Obligations.StoppingHoldsTheState := by
  intro s hsettled
  have hidle : s.tr.phase = .idle := congrArg Transients.phase hsettled
  exact ⟨fun hport => step_of_port_nil hport (.inr hidle), fun p hport => step_drive_none hport (.inr hidle)⟩

/-- Settles O52. -/
theorem resetStateOfTheBlock : Obligations.ResetStateOfTheBlock := ⟨rfl, rfl, rfl, rfl⟩

/-! ## A step in a resolution in progress -/

/-- A resolution goes on where no reset is presented and the block is not faulted (44_pipeline.md R152). -/
theorem fetch_of_resolution {s : State} (hfault : s.fault = .none)
    (hnoreset : ∀ r p, s.port = r :: p → r.isReset = false) (hphase : s.tr.phase ≠ .idle) :
    fetch s = fetchResolution s := by
  rcases fetch_cases s with ⟨r, p, hport, htaken, _⟩ | ⟨_, h⟩ | ⟨hfaulted, _⟩
  · rcases htaken with hreset | hfaulted | hidle
    · exact absurd hreset (by rw [hnoreset r p hport]; decide)
    · exact absurd hfault hfaulted
    · exact absurd hidle hphase
  · exact h
  · exact absurd hfault hfaulted

section
variable {s : State}

theorem fetchResolution_checkLength (hphase : s.tr.phase = .checkLength) :
    fetchResolution s = (.key (.validator false) [], s) := by simp only [fetchResolution, hphase]

theorem fetchResolution_checkSum (hphase : s.tr.phase = .checkSum) :
    fetchResolution s = (.key (.validator true) [], s) := by simp only [fetchResolution, hphase]

theorem fetchResolution_raw {b : Byte} {rest : List Byte} (hphase : s.tr.phase = .payload)
    (hraw : s.tr.raw = b :: rest) :
    fetchResolution s = (.key .unstuffer [b], { s with tr := { s.tr with raw := rest } }) := by
  simp only [fetchResolution, hphase, hraw]

theorem fetchResolution_frame (hphase : s.tr.phase = .payload) (hraw : s.tr.raw = []) :
    fetchResolution s = (.key .frame ((s.tr.cand.drop 1).take 1), s) := by
  simp only [fetchResolution, hphase, hraw]

end

/-- Settles O5, by what is fetched for each kind of request and in each phase of a resolution. -/
theorem stepRunsTheDecodedOperation : Obligations.StepRunsTheDecodedOperation := by
  intro s i
  refine ⟨?reset, ?byte, ?chunk, fun hfault hnoreset => ?_⟩
  case reset => rintro b p hport ⟨⟩; exact step_drive_reset hport
  case byte => rintro hfault hidle b p hport ⟨⟩; exact step_byte_of_unfaulted hport hidle hfault
  case chunk => rintro h chunk p hport ⟨⟩; exact step_feed hport h
  have hfetch {phase : Phase} (hphase : s.tr.phase = phase) (hne : phase ≠ .idle) : fetch s = fetchResolution s :=
    fetch_of_resolution hfault hnoreset (hphase ▸ hne)
  refine ⟨fun hphase hdec => ?_, fun hphase hdec => ?_, fun b r hphase hraw hdec => ?_,
    fun l t c hphase hraw hcand hdec => ?_⟩
  · exact step_of_fetch_key ((hfetch hphase (by decide)).trans (fetchResolution_checkLength hphase)) hdec
  · exact step_of_fetch_key ((hfetch hphase (by decide)).trans (fetchResolution_checkSum hphase)) hdec
  · exact step_of_fetch_key ((hfetch hphase (by decide)).trans (fetchResolution_raw hphase hraw)) hdec
  · have htype : (s.tr.cand.drop 1).take 1 = [t] := by rw [hcand]; rfl
    have hkey := (hfetch hphase (by decide)).trans (fetchResolution_frame hphase hraw)
    rw [htype] at hkey
    exact step_of_fetch_key hkey hdec

end Sys2Proof.Machine

namespace Sys2Proof.Machine

/-! ## A placed table word (log entry 11) -/

/-- What is placed behind the pending resets finds none of them at the head of the port. -/
theorem isReset_of_dropWhile_cons {port p : List Request} {r : Request}
    (h : port.dropWhile Request.isReset = r :: p) : r.isReset = false := by
  have hhead := List.head?_dropWhile_not Request.isReset port
  rw [h] at hhead
  simpa using hhead

/-- The next step fetches the operation `i`, from a state that is unfaulted and in the rest as `s`. -/
def FetchesNext (i : Instr) (s placed : State) : Prop :=
  ∃ level bytes rest t, fetch placed = (.key level bytes, t) ∧ decode level bytes = .ok (i, rest) ∧
    t.params = s.params ∧ t.buf = s.buf ∧ t.sink = s.sink ∧ t.fault = .none

/-- At the level that `tableLevel` gives them, the bytes stand where `fetch` finds them. -/
theorem placeBytes_fetchesNext {bytes rest : List Byte} {i : Instr} (s : State)
    (hdec : decode (tableLevel bytes) bytes = .ok (i, rest)) : FetchesNext i s (placeBytes bytes s) := by
  cases bytes with
  | nil =>
    have hfetch := fetch_of_request_taken (s := placeBytes [] s) (r := .feed []) rfl (.inr (.inr rfl))
    exact ⟨_, _, rest, _, hfetch, hdec, rfl, rfl, rfl, rfl⟩
  | cons k bytes =>
    have hnoreset (r : Request) (p : List Request) : s.port.dropWhile Request.isReset = r :: p → r.isReset = false :=
      isReset_of_dropWhile_cons
    by_cases hesc : k = Config.esc
    · have hlevel : tableLevel (k :: bytes) = .unstuffer := if_pos hesc
      rw [hlevel] at hdec
      simp only [FetchesNext, placeBytes, hlevel]
      exact ⟨_, _, [], _, (fetch_of_resolution rfl hnoreset Phase.noConfusion).trans (fetchResolution_raw rfl rfl),
        by cases hdec; rfl, rfl, rfl, rfl, rfl⟩
    by_cases htype : k = Config.typeControl ∨ k = Config.typeDownlink
    · have hlevel : tableLevel (k :: bytes) = .frame := (if_neg hesc).trans (if_pos htype)
      rw [hlevel] at hdec
      simp only [FetchesNext, placeBytes, hlevel]
      exact ⟨_, _, [], _, (fetch_of_resolution rfl hnoreset Phase.noConfusion).trans (fetchResolution_frame rfl rfl),
        by cases hdec; rfl, rfl, rfl, rfl, rfl⟩
    · have hlevel : tableLevel (k :: bytes) = .byte .hunt 0 none := (if_neg hesc).trans (if_neg htype)
      rw [hlevel] at hdec
      cases hdec
      simp only [FetchesNext, placeBytes, hlevel]
      have hfetch := fetch_of_request_taken (s := { s with
        st := .hunt, fault := .none, tr := .none, port := presentEach s.port (k :: rest) }) rfl (.inr (.inr rfl))
      exact ⟨_, _, [], _, hfetch, rfl, rfl, rfl, rfl, rfl⟩

/-- Settles O6. -/
theorem placedWordRunsNext : Obligations.PlacedWordRunsNext := by
  intro s nbits w i hword
  rw [State.withFetchWord]
  rw [decodeTableWord] at hword
  generalize wordBytes ((nbits + 7) / 8) w = bytes at hword ⊢
  cases hdec : decode (tableLevel bytes) bytes with
  | error e => rw [hdec] at hword; cases hword
  | ok r =>
    rw [hdec] at hword
    cases hword
    obtain ⟨level, key, rest, t, hfetch, hkey, hframe⟩ := placeBytes_fetchesNext s hdec
    refine ⟨⟨level, key, rest, congrArg Prod.fst hfetch, hkey⟩, ?_⟩
    rw [step_of_fetch_key hfetch hkey, hfetch]
    exact ⟨rfl, hframe⟩

/-! ## All that a step can do -/

/-- What a step can lead to: a request is taken or nothing happens, a byte is consumed, the block is reset, or an
operation of a resolution in progress is performed. -/
inductive Stepped (s : State) : State → Prop
  | taken (p : List Request) : Stepped s { s with port := p }
  | byte (b : Byte) (p : List Request) : Stepped s { stepByte s b with port := p }
  | reset (p : List Request) : Stepped s (resetBlock { s with port := p })
  | resolution {t : State} : s.tr.phase ≠ .idle → OnlyResolves s t → Stepped s t

theorem onlyResolves_of_tr {s t : State} {tr : Transients} (h : OnlyResolves { s with tr := tr } t) :
    OnlyResolves s t := h

/-- What a request that is taken leads to. -/
theorem stepped_of_request {s : State} {r : Request} {p : List Request} (hport : s.port = r :: p)
    (htaken : r.isReset = true ∨ s.fault ≠ .none ∨ s.tr.phase = .idle) : ∃ t, step s = .next t ∧ Stepped s t := by
  cases r with
  | drive rst b =>
    cases rst with
    | true => exact ⟨_, step_drive_reset hport, .reset p⟩
    | false =>
      have h : s.fault ≠ .none ∨ s.tr.phase = .idle := htaken.resolve_left Bool.false_ne_true
      cases b with
      | none => exact ⟨_, step_drive_none hport h, .taken p⟩
      | some b =>
        by_cases hfault : s.fault = .none
        · rw [step_byte_of_unfaulted hport (h.resolve_left (not_not_intro hfault)) hfault]
          refine ⟨_, exec_decodeInputByte { s with port := p } b, ?_⟩
          rw [stepByte_setPort]
          exact .byte b p
        · exact ⟨_, step_byte_of_faulted hport hfault, .taken p⟩
  | feed chunk =>
    rw [step_feed hport (htaken.resolve_left Bool.false_ne_true)]
    rcases execFeed_cases chunk { s with port := p } with ⟨_, h⟩ | ⟨b, rest, _, h⟩
    · exact ⟨_, h, .taken p⟩
    · refine ⟨_, h, ?_⟩
      rw [stepByte_setPort]
      exact .byte b _

/-- What an operation of a resolution leads to. -/
theorem stepped_of_resolution {s t : State} {i : Instr} {level : Level} {bytes rest : List Byte}
    (hfetch : fetch s = (.key level bytes, t)) (hdec : decode level bytes = .ok (i, rest)) (hi : i.isResolution = true)
    (hphase : s.tr.phase ≠ .idle) (ht : ∀ u, OnlyResolves t u → OnlyResolves s u) :
    ∃ u, step s = .next u ∧ Stepped s u := by
  rw [step_of_fetch_key hfetch hdec]
  obtain ⟨u, hu, honly⟩ := exec_onlyResolves hi t
  exact ⟨u, hu, .resolution hphase (ht u honly)⟩

/-- Every step answers a next state, but where a resolution has come to the type byte of a candidate without one. -/
theorem step_cases (s : State) :
    (∃ t, step s = .next t ∧ Stepped s t) ∨
    (s.tr.phase = .payload ∧ s.tr.cand.length < 2 ∧ step s = .refused (.undecodable .noTypeByte)) := by
  rcases fetch_cases s with ⟨r, p, hport, htaken, _⟩ | ⟨_, hfetch⟩ | ⟨_, _, hfetch⟩
  · exact .inl (stepped_of_request hport htaken)
  · rcases fetchResolution_cases s with ⟨_, h⟩ | ⟨hphase, h⟩ | ⟨hphase, h⟩ | ⟨b, rest, hphase, _, h⟩ | ⟨hphase, _, h⟩
    · exact .inl ⟨s, step_of_fetch_nothing (hfetch.trans h), .taken s.port⟩
    all_goals have hgoes : s.tr.phase ≠ .idle := by rw [hphase]; decide
    · exact .inl (stepped_of_resolution (rest := []) (hfetch.trans h) rfl rfl hgoes fun _ => id)
    · exact .inl (stepped_of_resolution (rest := []) (hfetch.trans h) rfl rfl hgoes fun _ => id)
    · exact .inl (stepped_of_resolution (rest := []) (hfetch.trans h) rfl (isResolution_decodeRawByte b) hgoes
        fun _ => onlyResolves_of_tr)
    · match hcand : s.tr.cand with
      | [] | [_] =>
        rw [hcand] at h
        refine .inr ⟨hphase, by simp, ?_⟩
        rw [step, hfetch, h]
        rfl
      | _ :: t :: _ =>
        rw [hcand] at h
        exact .inl (stepped_of_resolution (rest := []) (hfetch.trans h) rfl (isResolution_decodeFrameType t) hgoes
          fun _ => id)
  · exact .inl ⟨s, step_of_fetch_nothing hfetch, .taken s.port⟩

theorem stepped_of_step {s t : State} (h : step s = .next t) : Stepped s t := by
  rcases step_cases s with ⟨t', ht', hstepped⟩ | ⟨_, _, hrefused⟩
  · cases h.symm.trans ht'
    exact hstepped
  · cases h.symm.trans hrefused

/-- Settles O56. -/
theorem stepIsTotal : Obligations.StepIsTotal := by
  intro s htype
  rcases step_cases s with ⟨t, ht, _⟩ | ⟨hphase, hshort, _⟩
  · exact ⟨t, ht⟩
  · exact absurd (htype hphase) (Nat.not_le_of_lt hshort)

/-! ## The invariants (10_state.md R22, R23, R27) -/

/-- Settles O55. -/
theorem stepsAreAtomic : Obligations.StepsAreAtomic := by
  intro s t hsettled h
  cases stepped_of_step h with
  | taken p => exact hsettled
  | byte b p => exact (stepByte_tr s b).trans hsettled
  | reset p => rfl
  | resolution hphase _ => exact absurd (congrArg Transients.phase hsettled) hphase

/-- Settles O57. -/
theorem parametersAndEventsStand : Obligations.ParametersAndEventsStand := by
  intro s t h
  cases stepped_of_step h with
  | taken p => exact ⟨rfl, List.prefix_rfl⟩
  | byte b p =>
    refine ⟨stepByte_params s b, ?_⟩
    rw [stepByte_sink]
    exact List.prefix_append _ _
  | reset p => exact ⟨rfl, List.prefix_rfl⟩
  | resolution _ honly =>
    obtain ⟨tr, events, rfl⟩ := honly
    exact ⟨rfl, List.prefix_append _ _⟩

/-- An empty buffer meets all that the invariants ask of a buffer. -/
theorem inv_of_buf_eq_nil {s : State} (hbuf : s.buf = []) (hfault : s.params.cap = none → s.fault = .none) : s.Inv where
  canonical := by rw [hbuf]; rfl
  noDelimiter := by rw [hbuf]; exact List.not_mem_nil
  huntEmpty _ := hbuf
  fits _ _ := by rw [hbuf]; exact Nat.zero_le _
  overflowNeedsCap := hfault

/-- Settles O53. -/
theorem resetMeetsTheInvariants : Obligations.ResetMeetsTheInvariants := inv_of_buf_eq_nil rfl fun _ => rfl

/-- The invariants of `t` are those of `s` where the two agree on the block and its parameters. -/
theorem inv_congr {s t : State} (hst : t.st = s.st) (hbuf : t.buf = s.buf) (hfault : t.fault = s.fault)
    (hparams : t.params = s.params) (h : s.Inv) : t.Inv where
  canonical := by rw [hbuf]; exact h.canonical
  noDelimiter := by rw [hbuf]; exact h.noDelimiter
  huntEmpty := by rw [hst, hbuf]; exact h.huntEmpty
  fits := by rw [hbuf, hparams]; exact h.fits
  overflowNeedsCap := by rw [hparams, hfault]; exact h.overflowNeedsCap

/-- PUSH keeps the invariants, in an open frame with room for a byte that is no delimiter. -/
theorem push_inv {s : State} {b : Byte} (h : s.Inv) (hst : s.st = .opened) (hb : b ≠ Config.delim)
    (hroom : hasRoom s.params.cap s.buf.size = true) : (push b s).Inv where
  canonical := wf_append h.canonical b
  noDelimiter := by
    rw [push_buf, bytes_append, List.mem_append, List.mem_singleton]
    exact not_or.2 ⟨h.noDelimiter, hb.symm⟩
  huntEmpty hhunt := by rw [push_st, hst] at hhunt; cases hhunt
  fits c hc := by
    rw [push_buf, size_append]
    exact (hasRoom_iff _ _).1 hroom c hc
  overflowNeedsCap := h.overflowNeedsCap

/-- OVERFLOW keeps the invariants: only a buffer with a finite `CAP` is ever full. -/
theorem markOverflow_inv {s : State} (h : s.Inv) (hfull : hasRoom s.params.cap s.buf.size = false) :
    (markOverflow s).Inv where
  canonical := h.canonical
  noDelimiter := h.noDelimiter
  huntEmpty := h.huntEmpty
  fits := h.fits
  overflowNeedsCap hcap := by
    rw [markOverflow_params] at hcap
    rw [hcap] at hfull
    cases hfull

theorem stepByte_inv {s : State} (h : s.Inv) (b : Byte) : (stepByte s b).Inv := by
  refine unlessFaulted_keeps h fun hfault => ?_
  rcases performByte_cases b s with ⟨_, _, hop⟩ | ⟨_, _, hop⟩ | ⟨_, _, _, hop⟩ | ⟨_, _, _, hop⟩ |
    ⟨hst, hb, hroom, hop⟩ | ⟨_, _, hfull, hop⟩ <;> rw [hop]
  · exact inv_of_buf_eq_nil rfl fun _ => hfault
  · exact h
  · exact inv_of_buf_eq_nil rfl fun _ => hfault
  · exact inv_of_buf_eq_nil rfl fun _ => hfault
  · exact push_inv h hst hb hroom
  · exact markOverflow_inv h hfull

/-- Settles O54, case by case of what a step can do. -/
theorem stepKeepsTheInvariants : Obligations.StepKeepsTheInvariants := by
  intro s t hinv h
  cases stepped_of_step h with
  | taken p => exact inv_congr (s := s) rfl rfl rfl rfl hinv
  | byte b p => exact inv_congr (s := stepByte s b) rfl rfl rfl rfl (stepByte_inv hinv b)
  | reset p => exact inv_of_buf_eq_nil rfl fun _ => rfl
  | resolution _ honly =>
    obtain ⟨tr, events, rfl⟩ := honly
    exact inv_congr (s := s) rfl rfl rfl rfl hinv

end Sys2Proof.Machine

namespace Sys2Proof.Machine

/-! ## The positional unstuffer (41_unstuffer.md R110), byte by byte -/

/-- The byte at position `i` of the positional form, when an escape may also stand right before the sequence. -/
def unescapedAfter (esc : Bool) (r : List Byte) : Nat → Byte
  | 0 => byteAt r 0 ^^^ if esc then Config.escXor else 0x00#8
  | i + 1 => unescapedAt r (i + 1)

/-- The positional form, when an escape may also stand right before the sequence. -/
def unstuffAfter (esc : Bool) (r : List Byte) : List Byte :=
  ((List.range r.length).filter fun i => !escapeAt r i).map (unescapedAfter esc r)

theorem unstuffAfter_false (r : List Byte) : unstuffAfter false r = unstuff r := by
  refine List.map_congr_left fun i _ => ?_
  cases i with
  | zero => simp [unescapedAfter, unescapedAt]
  | succ i => rfl

theorem byteAt_eq_getElem {p : List Byte} {i : Nat} (h : i < p.length) : byteAt p i = p[i] := by
  simp [byteAt, h]

theorem byteAt_cons_succ {r : List Byte} {i : Nat} (h : i < r.length) (b : Byte) :
    byteAt (b :: r) (i + 1) = byteAt r i := by
  rw [byteAt_eq_getElem h, byteAt_eq_getElem (Nat.succ_lt_succ h), List.getElem_cons_succ]

theorem escapeAt_cons_succ (b : Byte) (r : List Byte) (i : Nat) : escapeAt (b :: r) (i + 1) = escapeAt r i := rfl

theorem escapeAt_cons_zero (b : Byte) (r : List Byte) : escapeAt (b :: r) 0 = (b == Config.esc) := rfl

/-- After its first byte the positional form goes on as after that byte. -/
theorem unescapedAt_cons_succ {r : List Byte} {i : Nat} (h : i < r.length) (b : Byte) :
    unescapedAt (b :: r) (i + 1) = unescapedAfter (b == Config.esc) r i := by
  rw [unescapedAt, byteAt_cons_succ h, Nat.add_sub_cancel]
  cases i with
  | zero => cases hb : b == Config.esc <;> simp [unescapedAfter, escapeAt_cons_zero, hb]
  | succ i => simp [unescapedAfter, unescapedAt, escapeAt_cons_succ]

theorem unstuffAfter_cons (esc : Bool) (b : Byte) (r : List Byte) :
    unstuffAfter esc (b :: r) =
      (if b = Config.esc then [] else [b ^^^ if esc then Config.escXor else 0x00#8]) ++
        unstuffAfter (b == Config.esc) r := by
  have hrest : (((List.range r.length).map Nat.succ).filter fun i => !escapeAt (b :: r) i).map
      (unescapedAfter esc (b :: r)) = unstuffAfter (b == Config.esc) r := by
    rw [List.filter_map, List.map_map]
    refine List.map_congr_left fun i hi => ?_
    exact unescapedAt_cons_succ (List.mem_range.1 (List.mem_of_mem_filter hi)) b
  rw [← hrest, unstuffAfter, List.length_cons, List.range_succ_eq_map, List.filter_cons, escapeAt_cons_zero]
  by_cases hb : b = Config.esc
  · simp [hb]
  · simp [hb, unescapedAfter, byteAt]

/-- The serial form (R111) is the positional one, from either value of the flag. -/
theorem unstuffSerial_eq_unstuffAfter (esc : Bool) (r : List Byte) : unstuffSerial esc r = unstuffAfter esc r := by
  induction r generalizing esc with
  | nil => rfl
  | cons b r ih =>
    rw [unstuffAfter_cons, ← ih, unstuffSerial]
    by_cases hb : b = Config.esc
    · rw [if_pos hb, if_pos hb, beq_iff_eq.2 hb]; rfl
    · rw [if_neg hb, if_neg hb, beq_eq_false_iff_ne.2 hb]; rfl

/-- Settles O16. -/
theorem serialUnstuffIsPositional : Obligations.SerialUnstuffIsPositional := fun r => by
  rw [unstuffSerial_eq_unstuffAfter, unstuffAfter_false]

/-! ## What the unstuffer outputs (R112, R114, R115), by the serial form -/

theorem unstuff_eq_serial (r : List Byte) : unstuff r = unstuffSerial false r := (serialUnstuffIsPositional r).symm

@[simp] theorem unstuffSerial_nil (esc : Bool) : unstuffSerial esc [] = [] := rfl

@[simp] theorem unstuffSerial_esc (esc : Bool) (r : List Byte) :
    unstuffSerial esc (0x7D#8 :: r) = unstuffSerial true r := rfl

theorem unstuffSerial_of_ne {b : Byte} (hb : b ≠ 0x7D#8) (esc : Bool) (r : List Byte) :
    unstuffSerial esc (b :: r) = (if esc then b ^^^ 0x20#8 else b) :: unstuffSerial false r := by
  rw [unstuffSerial, if_neg hb, xor_escMask]

theorem length_unstuffSerial (esc : Bool) (r : List Byte) :
    (unstuffSerial esc r).length = (r.filter (fun b => b ≠ 0x7D#8)).length := by
  induction r generalizing esc with
  | nil => rfl
  | cons b r ih =>
    by_cases hb : b = 0x7D#8
    · rw [hb, unstuffSerial_esc, ih]; rfl
    · rw [unstuffSerial_of_ne hb, List.length_cons, ih, List.filter_cons_of_pos (by simpa using hb), List.length_cons]

theorem unstuffSerial_of_notMem {r : List Byte} (h : 0x7D#8 ∉ r) : unstuffSerial false r = r := by
  induction r with
  | nil => rfl
  | cons b r ih =>
    obtain ⟨hb, hr⟩ := not_or.1 (mt List.mem_cons.2 h)
    rw [unstuffSerial_of_ne (Ne.symm hb), ih hr]
    rfl

/-- Bit 5 is the one bit of the mask. -/
theorem getLsbD_xor_escXor (x : Byte) {k : Nat} (hk : k < 8) :
    (x ^^^ 0x20#8).getLsbD k = (x.getLsbD k != (k == 5)) := by
  have hmask : (0x20#8 : Byte).getLsbD k = (k == 5) := by
    revert k
    decide
  rw [BitVec.getLsbD_xor, hmask]

/-- Settles O17. -/
theorem unstuffOutputLaws : Obligations.UnstuffOutputLaws := by
  refine ⟨fun r => ?_, fun r hr => ?_, fun x r hx => ?_, fun x k => getLsbD_xor_escXor x⟩
  · rw [unstuff_eq_serial, length_unstuffSerial]
  · rw [unstuff_eq_serial, unstuffSerial_of_notMem hr]
  · rw [unstuff_eq_serial, unstuffSerial_esc, unstuffSerial_of_ne hx, unstuff_eq_serial]
    rfl

theorem unstuffSerial_append_esc (esc : Bool) (r : List Byte) :
    unstuffSerial esc (r ++ [0x7D#8]) = unstuffSerial esc r := by
  induction r generalizing esc with
  | nil => rfl
  | cons b r ih =>
    rw [List.cons_append, unstuffSerial, unstuffSerial, ih, ih]

/-- Settles O19. -/
theorem malformedEscapesAreTolerated : Obligations.MalformedEscapesAreTolerated := by
  refine ⟨fun r => ?_, fun r => ?_, fun x r hx => ?_⟩
  · rw [unstuff_eq_serial, unstuffSerial_append_esc, unstuff_eq_serial]
  · simp [unstuff_eq_serial]
  · simp [unstuff_eq_serial, unstuffSerial_of_ne hx]

/-! ## Stuffing (30_encoding.md R84) -/

theorem stuffByte_of_reserved {b : Byte} (h : b = 0x7E#8 ∨ b = 0x7D#8) : stuffByte b = [0x7D#8, b ^^^ 0x20#8] :=
  if_pos h

theorem stuffByte_of_plain {b : Byte} (h : ¬(b = 0x7E#8 ∨ b = 0x7D#8)) : stuffByte b = [b] := if_neg h

/-- Unstuffing one stuffed byte gives it back, with the flag clear again. -/
theorem unstuffSerial_stuffByte_append (b : Byte) (r : List Byte) :
    unstuffSerial false (stuffByte b ++ r) = b :: unstuffSerial false r := by
  by_cases hb : b = 0x7E#8 ∨ b = 0x7D#8
  · rw [stuffByte_of_reserved hb]
    rcases hb with rfl | rfl <;> rfl
  · rw [stuffByte_of_plain hb, List.singleton_append, unstuffSerial_of_ne (not_or.1 hb).2]
    rfl

/-- Settles O18. -/
theorem unstuffInvertsStuff : Obligations.UnstuffInvertsStuff := by
  intro payload
  rw [unstuff_eq_serial]
  induction payload with
  | nil => rfl
  | cons b rest ih => rw [stuff, List.flatMap_cons, unstuffSerial_stuffByte_append, ← stuff, ih]

end Sys2Proof.Machine

namespace Sys2Proof.Machine

/-! ## The sum of a sequence (42_validator.md R123) -/

theorem checksumSum_cons (b : Byte) (c : List Byte) : checksumSum (b :: c) = b.toNat + checksumSum c := by
  simp [checksumSum]

theorem checksumSum_append (c d : List Byte) : checksumSum (c ++ d) = checksumSum c + checksumSum d := by
  simp [checksumSum]

theorem checksumSum_singleton (b : Byte) : checksumSum [b] = b.toNat := rfl

theorem checksumSum_perm {c d : List Byte} (h : c.Perm d) : checksumSum c = checksumSum d :=
  (h.map BitVec.toNat).sum_eq

theorem chksumPasses_congr {c d : List Byte} (h : checksumSum c % 255 = checksumSum d % 255) :
    chksumPasses c = chksumPasses d := by
  rw [Bool.eq_iff_iff, chksumPasses_iff, chksumPasses_iff, h]

/-- T-VAL-13 and T-VAL-15 (95_test_vectors.md): two candidates with one message. -/
theorem two_candidates_one_message :
    ∃ (c c' : List Byte) (m : DownlinkMsg), c ≠ c' ∧ resolve .default c = .downlink m ∧
      resolve .default c' = .downlink m :=
  ⟨[0x08#8, 0x01#8, 0x32#8, 0x01#8, 0x02#8, 0xAA#8, 0xBB#8, 0xCC#8, 0xDD#8, 0xB0#8],
   [0x03#8, 0x01#8, 0x32#8, 0x01#8, 0x02#8, 0xAA#8, 0xBB#8, 0xCC#8, 0xDD#8, 0xB5#8],
   ⟨0x32#8, 0x0201#16, #v[0xAA#8, 0xBB#8, 0xCC#8, 0xDD#8]⟩, by decide, by decide, by decide⟩

/-- Settles O24: only the sum's residue modulo 255 reaches CHKSUM. -/
theorem checksumBlindSpots : Obligations.ChecksumBlindSpots := by
  refine ⟨fun c c' h => chksumPasses_congr (by rw [checksumSum_perm h]), fun c x ck hx => chksumPasses_congr ?_,
    two_candidates_one_message⟩
  rw [checksumSum_append, checksumSum_cons, checksumSum_append]
  rcases hx with rfl | rfl
  · rw [BitVec.toNat_zero, Nat.zero_add]
  · have hvalue : (0xFF#8 : Byte).toNat = 255 := rfl
    omega

/-! ## The end-around-carry accumulator (42_validator.md R124) -/

/-- The addition does not wrap: the carry is added where the sum has lost 256. -/
theorem toNat_carryAdd (a c : Byte) :
    (carryAdd a c).toNat = (a.toNat + c.toNat) % 256 + (a.toNat + c.toNat) / 256 := by
  rw [carryAdd, BitVec.toNat_ofNat]
  omega

theorem toNat_carryAdd_mod (a c : Byte) : (carryAdd a c).toNat % 255 = (a.toNat + c.toNat) % 255 := by
  rw [toNat_carryAdd]
  omega

theorem toNat_carryAdd_pos {a c : Byte} (h : 0 < a.toNat ∨ 0 < c.toNat) : 0 < (carryAdd a c).toNat := by
  rw [toNat_carryAdd]
  omega

theorem toNat_foldl_carryAdd_mod (c : List Byte) (a : Byte) :
    (c.foldl carryAdd a).toNat % 255 = (a.toNat + checksumSum c) % 255 := by
  induction c generalizing a with
  | nil => rfl
  | cons b c ih =>
    have hstep := toNat_carryAdd_mod a b
    rw [List.foldl_cons, ih, checksumSum_cons]
    omega

/-- Once it is not 0 the accumulator never is again. -/
theorem toNat_foldl_carryAdd_pos (c : List Byte) {a : Byte} (h : 0 < a.toNat) : 0 < (c.foldl carryAdd a).toNat := by
  induction c generalizing a with
  | nil => exact h
  | cons b c ih => exact ih (toNat_carryAdd_pos (.inl h))

theorem toNat_carrySum_mod (c : List Byte) : (carrySum c).toNat % 255 = checksumSum c % 255 := by
  rw [carrySum, toNat_foldl_carryAdd_mod, BitVec.toNat_zero, Nat.zero_add]

theorem toNat_carrySum_pos {l : Byte} (hl : l ≠ 0x00#8) (rest : List Byte) : 0 < (carrySum (l :: rest)).toNat := by
  have hpos : 0 < l.toNat := Nat.pos_of_ne_zero fun h => hl (BitVec.eq_of_toNat_eq h)
  exact toNat_foldl_carryAdd_pos rest (toNat_carryAdd_pos (.inr hpos))

/-- A byte is a multiple of 255 exactly at its two ends. -/
theorem toNat_mod_255_eq_zero_iff (a : Byte) : a.toNat % 255 = 0 ↔ a = 0x00#8 ∨ a = 0xFF#8 := by
  rw [← BitVec.toNat_inj, ← BitVec.toNat_inj]
  have hzero : (0x00#8 : Byte).toNat = 0 := rfl
  have hones : (0xFF#8 : Byte).toNat = 255 := rfl
  omega

theorem carryPasses_iff (c : List Byte) : carryPasses c = true ↔ checksumSum c % 255 = 0 := by
  rw [← toNat_carrySum_mod, toNat_mod_255_eq_zero_iff, carryPasses, Bool.or_eq_true, beq_iff_eq, beq_iff_eq]

/-- Settles O23. After CHKLEN the first byte is not 0, so the accumulator does not end at 0. -/
theorem carrySumDecidesTheChecksum : Obligations.CarrySumDecidesTheChecksum := by
  intro c
  refine ⟨toNat_carrySum_mod c, carryPasses_iff c, fun hpass => ?_⟩
  cases c with
  | nil => cases hpass
  | cons l rest =>
    obtain ⟨-, hl, -⟩ := (chklenPasses_cons_iff l rest).1 hpass
    have hpos := toNat_carrySum_pos hl rest
    have hne : carrySum (l :: rest) ≠ 0x00#8 := fun h => by rw [h] at hpos; cases hpos
    have hsum : checksumSum (l :: rest) % 255 = 0 ↔ _ := toNat_carrySum_mod (l :: rest) ▸ toNat_mod_255_eq_zero_iff _
    exact (hsum.trans (or_iff_right hne)).symm

/-! ## The sum and the length of what the harness sends (42_validator.md R125, R127) -/

theorem checksumSum_stuffByte (b : Byte) :
    checksumSum (stuffByte b) = b.toNat + if b = 0x7E#8 ∨ b = 0x7D#8 then 93 else 0 := by
  by_cases hb : b = 0x7E#8 ∨ b = 0x7D#8
  · rw [stuffByte_of_reserved hb, if_pos hb]
    rcases hb with rfl | rfl <;> rfl
  · rw [stuffByte_of_plain hb, if_neg hb, checksumSum_singleton, Nat.add_zero]

theorem stuff_cons (b : Byte) (rest : List Byte) : stuff (b :: rest) = stuffByte b ++ stuff rest := rfl

/-- Settles O25. -/
theorem stuffingShiftsTheSum : Obligations.StuffingShiftsTheSum := by
  refine ⟨fun payload => ?_, fun k => by omega⟩
  induction payload with
  | nil => rfl
  | cons b rest ih =>
    rw [stuff_cons, checksumSum_append, checksumSum_stuffByte, ih, checksumSum_cons]
    by_cases hb : b = 0x7E#8 ∨ b = 0x7D#8
    · simp only [List.filter_cons, decide_eq_true hb, if_pos hb, if_true, List.length_cons]
      omega
    · simp only [List.filter_cons, decide_eq_false hb, if_neg hb, Bool.false_eq_true, if_false]
      omega

theorem length_stuffByte_pos (b : Byte) : 1 ≤ (stuffByte b).length := by
  unfold stuffByte
  split <;> simp

theorem length_le_length_stuff (payload : List Byte) : payload.length ≤ (stuff payload).length := by
  induction payload with
  | nil => exact Nat.le_refl 0
  | cons b rest ih =>
    rw [stuff_cons, List.length_append, List.length_cons, Nat.add_comm]
    exact Nat.add_le_add (length_stuffByte_pos b) ih

/-- The checksum byte completes the sum of the body to a multiple of 255. -/
theorem checksumSum_body_add_checksumFor (body : List Byte) :
    (checksumSum body + (checksumFor body).toNat) % 255 = 0 := by
  have hmod : Config.ckMod = 255 := rfl
  rw [checksumFor, BitVec.toNat_ofNat, hmod]
  omega

/-- The interior of a frame of the harness in its fields. -/
theorem frameInterior_eq (t : Byte) (payload : List Byte) :
    frameInterior t payload = BitVec.ofNat 8 (payload.length + 1) :: t ::
      (stuff payload ++ [checksumFor (frameBody t payload)]) := rfl

theorem toNat_lengthByte {n : Nat} (h : n ≤ 254) : (BitVec.ofNat 8 (n + 1)).toNat = n + 1 := by
  rw [BitVec.toNat_ofNat]
  omega

theorem chklenPasses_frameInterior (t : Byte) {payload : List Byte} (h : payload.length ≤ 254) :
    chklenPasses (frameInterior t payload) = true := by
  have hlength := toNat_lengthByte h
  have hstuff := length_le_length_stuff payload
  rw [frameInterior_eq, chklenPasses_cons_iff]
  refine ⟨by simp, fun hzero => ?_, ?_⟩
  · rw [hzero] at hlength
    cases hlength
  · rw [hlength, List.length_cons, List.length_append, List.length_singleton]
    omega

theorem chksumPasses_frameInterior (t : Byte) (payload : List Byte) :
    chksumPasses (frameInterior t payload) = true := by
  rw [chksumPasses_iff, frameInterior, checksumSum_append, checksumSum_singleton]
  exact checksumSum_body_add_checksumFor _

theorem validate_eq_none_iff (c : List Byte) :
    validate c = none ↔ chklenPasses c = true ∧ chksumPasses c = true := by
  rcases validate_cases c with ⟨hlen, h⟩ | ⟨hlen, hsum, h⟩ | ⟨hlen, hsum, h⟩ <;> rw [h, hlen]
  · simp
  · simp [hsum]
  · simp [hsum]

/-- Settles O26. -/
theorem harnessFramesValidate : Obligations.HarnessFramesValidate := fun t payload h =>
  (validate_eq_none_iff _).2 ⟨chklenPasses_frameInterior t h, chksumPasses_frameInterior t payload⟩

/-- Settles O27: after the checks only the type byte and the raw payload are read. -/
theorem declaredLengthIsOnlyChecked : Obligations.DeclaredLengthIsOnlyChecked := by
  intro p l l' t ck ck' r h h'
  rw [resolve_of_validate_none p h, resolve_of_validate_none p h', frameType_candidate, frameType_candidate,
    payload_candidate, payload_candidate]

/-! ## Exactly when each error is the event (60_exceptions.md R160, R164) -/

theorem chklenPasses_eq_false_iff (c : List Byte) :
    chklenPasses c = false ↔ c.length < 3 ∨ declaredLength c = 0x00#8 ∨ c.length - 2 < (declaredLength c).toNat := by
  have hmin : Config.minCand = 3 := rfl
  rw [chklenPasses, hmin, Bool.and_eq_false_iff, Bool.and_eq_false_iff, decide_eq_false_iff_not, bne_eq_false_iff_eq,
    decide_eq_false_iff_not, Nat.not_le, Nat.not_le, or_assoc]

/-- The validator's two errors, each under its condition. -/
theorem validate_eq_some_iff (c : List Byte) (k : ErrorKind) :
    validate c = some k ↔ (chklenPasses c = false ∧ k = .lengthMismatch) ∨
      (chklenPasses c = true ∧ chksumPasses c = false ∧ k = .checksumMismatch) := by
  rcases validate_cases c with ⟨hlen, h⟩ | ⟨hlen, hsum, h⟩ | ⟨hlen, hsum, h⟩ <;> rw [h, hlen]
  · simp [eq_comm (b := k)]
  · simp [hsum, eq_comm (b := k)]
  · simp [hsum]

theorem controlEvent_eq_err_iff (p : Config.Params) (u : List Byte) (k : ErrorKind) :
    controlEvent p u = .err k ↔ u.length < p.ctrlMinBytes ∧ k = .shortPayload := by
  by_cases h : u.length < p.ctrlMinBytes
  · rw [controlEvent, if_pos h]; simp [h, eq_comm (b := k)]
  · rw [controlEvent, if_neg h]; simp [h]

theorem downlinkEvent_eq_err_iff (u : List Byte) (k : ErrorKind) :
    downlinkEvent u = .err k ↔ u.length < 7 ∧ k = .shortPayload := by
  by_cases h : u.length < 7
  · rw [downlinkEvent_of_lt_seven h]; simp [h, eq_comm (b := k)]
  · rw [downlinkEvent_of_seven_le (Nat.le_of_not_lt h)]; simp [h]

/-- The decoder's two errors, each under its condition. -/
theorem decodeMessage_eq_err_iff (p : Config.Params) (t : Byte) (u : List Byte) (k : ErrorKind) :
    decodeMessage p t u = .err k ↔
      ((t ≠ 0x00#8 ∧ t ≠ 0x01#8) ∧ k = .unknownFrameType) ∨
      (((t = 0x00#8 ∧ u.length < p.ctrlMinBytes) ∨ (t = 0x01#8 ∧ u.length < 7)) ∧ k = .shortPayload) := by
  by_cases hcontrol : t = 0x00#8
  · subst hcontrol
    rw [decodeMessage_control, controlEvent_eq_err_iff]
    simp
  by_cases hdownlink : t = 0x01#8
  · subst hdownlink
    rw [decodeMessage_downlink, downlinkEvent_eq_err_iff]
    simp
  · rw [decodeMessage_of_ne p hcontrol hdownlink]
    simp [hcontrol, hdownlink, eq_comm (b := k)]

theorem resolve_eq_err_iff (p : Config.Params) (c : List Byte) (k : ErrorKind) :
    resolve p c = .err k ↔
      validate c = some k ∨ (validate c = none ∧ decodeMessage p (frameType c) (payload c) = .err k) := by
  cases hval : validate c with
  | some k' => rw [resolve_of_validate_some p hval]; simp
  | none => rw [resolve_of_validate_none p hval]; simp

/-- Settles O36, by the conditions of the validator's errors and of the decoder's. -/
theorem errorConditions : Obligations.ErrorConditions := by
  intro p c
  rw [← chklenPasses_eq_false_iff, ← chksumPasses_eq_false_iff]
  refine ⟨?_, ?_, ?_, ?_⟩ <;> rw [resolve_eq_err_iff, validate_eq_some_iff, decodeMessage_eq_err_iff] <;> simp

end Sys2Proof.Machine

namespace Sys2Proof.Machine

/-! ## The bit reader (00_scope.md R9, 43_decoder.md R133) -/

theorem readBits_zero (p : List Byte) (s : Nat) : readBits p s 0 = 0 := rfl

theorem readBits_succ (p : List Byte) (s w : Nat) :
    readBits p s (w + 1) = 2 ^ w * (sbit p (s + w)).toNat + readBits p s w := by
  rw [readBits, List.range_succ, List.map_append, List.sum_append_nat, ← readBits, List.map_singleton,
    List.sum_singleton, Nat.shiftLeft_eq, Nat.mul_comm, Nat.add_comm]

theorem readBits_lt (p : List Byte) (s w : Nat) : readBits p s w < 2 ^ w := by
  induction w with
  | zero => exact Nat.one_pos
  | succ w ih =>
    have hbit : 2 ^ w * (sbit p (s + w)).toNat ≤ 2 ^ w * 1 :=
      Nat.mul_le_mul_left _ (Bool.toNat_le _)
    rw [readBits_succ, Nat.pow_succ]
    omega

theorem testBit_readBits (p : List Byte) (s w j : Nat) :
    (readBits p s w).testBit j = (decide (j < w) && sbit p (s + j)) := by
  induction w with
  | zero => simp [readBits_zero]
  | succ w ih =>
    rw [readBits_succ, Nat.testBit_two_pow_mul_add _ (readBits_lt p s w), ih, Nat.testBit_bool_toNat]
    rcases Nat.lt_trichotomy j w with hlt | rfl | hgt
    · simp [hlt, Nat.lt_succ_of_lt hlt]
    · simp
    · simp [Nat.not_lt_of_lt hgt, Nat.sub_ne_zero_of_lt hgt, Nat.not_lt_of_le (Nat.succ_le_of_lt hgt)]

theorem readBits_add (p : List Byte) (s w v : Nat) :
    readBits p s (w + v) = readBits p s w + 2 ^ w * readBits p (s + w) v := by
  induction v with
  | zero => simp [readBits_zero]
  | succ v ih =>
    rw [← Nat.add_assoc, readBits_succ, ih, readBits_succ, Nat.pow_add, Nat.add_assoc s w v]
    ring

theorem sbit_of_getElem? {p : List Byte} {k : Nat} {b : Byte} (h : p[k / 8]? = some b) :
    sbit p k = b.toNat.testBit (k % 8) := by
  rw [sbit, byteAt, List.getD_eq_getElem?_getD, h]
  rfl

/-- Settles O28. -/
theorem bitReaderIsLsbFirst : Obligations.BitReaderIsLsbFirst :=
  ⟨testBit_readBits, fun _ _ _ => sbit_of_getElem?, readBits_add⟩

/-- A field depends on its own stream bits alone. -/
theorem readBits_congr {p q : List Byte} {s w : Nat} (h : ∀ j < w, sbit p (s + j) = sbit q (s + j)) :
    readBits p s w = readBits q s w :=
  congrArg List.sum (List.map_congr_left fun j hj => by rw [h j (List.mem_range.1 hj)])

theorem toNat_axis (u : List Byte) (i : Nat) : (axis u i).toNat = readBits u (11 * i) 11 := by
  rw [axis, BitVec.toNat_ofNat]
  exact Nat.mod_eq_of_lt (readBits_lt u _ 11)

/-! ## An axis in bytes and shifts (20_memory.md R43) -/

/-- The bits of three bytes in one number, the first byte the least significant. -/
theorem testBit_three_bytes (a b c : Byte) {q : Nat} (hq : q < 24) :
    (a.toNat + b.toNat * 256 + c.toNat * 65536).testBit q =
      (if q < 8 then a else if q < 16 then b else c).toNat.testBit (q % 8) := by
  have hsplit : a.toNat + b.toNat * 256 + c.toNat * 65536 = 2 ^ 8 * (2 ^ 8 * c.toNat + b.toNat) + a.toNat := by omega
  rw [hsplit, Nat.testBit_two_pow_mul_add _ a.isLt, Nat.testBit_two_pow_mul_add _ b.isLt]
  by_cases h8 : q < 8
  · rw [if_pos h8, if_pos h8, Nat.mod_eq_of_lt h8]
  by_cases h16 : q < 16
  · rw [if_neg h8, if_neg h8, if_pos h16, if_pos (by omega), (by omega : q % 8 = q - 8)]
  · rw [if_neg h8, if_neg h8, if_neg h16, if_neg (by omega), (by omega : q % 8 = q - 8 - 8)]

/-- Stream bit `8 k + q`, read from three bytes that start at byte `k`. -/
theorem sbit_of_three_bytes {u : List Byte} {k q : Nat} (hq : q < 24) (hin : k + q / 8 < u.length) :
    sbit u (8 * k + q) =
      ((u.getD k 0#8).toNat + (u.getD (k + 1) 0#8).toNat * 256 + (u.getD (k + 2) 0#8).toNat * 65536).testBit q := by
  have hbyte : u[(8 * k + q) / 8]? = some (u.getD (k + q / 8) 0#8) := by
    rw [(by omega : (8 * k + q) / 8 = k + q / 8), List.getD_eq_getElem _ _ hin, List.getElem?_eq_getElem hin]
  rw [sbit_of_getElem? hbyte, testBit_three_bytes _ _ _ hq, (by omega : (8 * k + q) % 8 = q % 8)]
  rcases (by omega : q / 8 = 0 ∨ q / 8 = 1 ∨ q / 8 = 2) with h | h | h <;> rw [h]
  · rw [if_pos (by omega)]; rfl
  · rw [if_neg (by omega), if_pos (by omega)]
  · rw [if_neg (by omega), if_neg (by omega)]

/-- Settles O29: bit `j` of the axis is bit `11 i mod 8 + j` of the three bytes from byte `11 i div 8` on. -/
theorem axisInByteTerms : Obligations.AxisInByteTerms := by
  intro u i hi hlen
  rw [toNat_axis, (by decide : 2048 = 2 ^ 11)]
  refine Nat.eq_of_testBit_eq fun j => ?_
  rw [testBit_readBits, Nat.testBit_mod_two_pow, Nat.testBit_div_two_pow]
  by_cases hj : j < 11
  · rw [(by omega : 11 * i + j = 8 * (11 * i / 8) + (j + 11 * i % 8)),
      sbit_of_three_bytes (by omega) (by omega)]
  · simp [hj]

/-! ## CONTROL (43_decoder.md R134, R135) -/

/-- Bit `k` of the packed value is `switches[k]` (30_encoding.md R81). -/
theorem getLsbD_packSwitches (sw : Vector Bool 2) {k : Nat} (hk : k < 2) : (packSwitches sw).getLsbD k = sw[k] := by
  rw [packSwitches, BitVec.getLsbD_ofNat, Nat.testBit_or, Nat.testBit_shiftLeft, Nat.testBit_bool_toNat,
    Nat.testBit_bool_toNat]
  rcases (by omega : k = 0 ∨ k = 1) with rfl | rfl <;> simp

theorem controlEvent_of_short {p : Config.Params} {u : List Byte} (h : u.length < p.ctrlMinBytes) :
    controlEvent p u = .err .shortPayload := if_pos h

theorem controlEvent_of_le {p : Config.Params} {u : List Byte} (h : p.ctrlMinBytes ≤ u.length) :
    controlEvent p u = .control (unpackControl p u).message := if_neg (Nat.not_lt_of_le h)

section
variable (p : Config.Params) (u : List Byte)

theorem message_axes {i : Nat} (hi : i < 16) : (unpackControl p u).message.axes[i] = axis u i := Vector.getElem_ofFn hi

theorem message_switches {k : Nat} (hk : k < 2) :
    (unpackControl p u).message.switches.getLsbD k = sbit u (p.ctrlSwBit + k) :=
  (getLsbD_packSwitches _ hk).trans (Vector.getElem_ofFn hk)

theorem message_frameLost : (unpackControl p u).message.frameLost = sbit u (p.ctrlFlagBit + 2) := rfl

theorem message_failsafe : (unpackControl p u).message.failsafe = sbit u (p.ctrlFlagBit + 3) := rfl

end

/-- Settles O30. -/
theorem controlDecodesThePayload : Obligations.ControlDecodesThePayload := by
  intro s hfault
  rw [exec_control_of_unfaulted hfault]
  refine ⟨fun hlen => ?_, fun hshort => ?_⟩
  · rw [controlEvent_of_le hlen]
    refine ⟨_, rfl, fun i hi => ?_, fun k hk => message_switches _ _ hk, message_frameLost _ _, message_failsafe _ _⟩
    rw [message_axes _ _ hi, toNat_axis]
  · rw [controlEvent_of_short hshort]
    rfl

theorem axis_congr {u v : List Byte} {i : Nat} (h : ∀ j < 11, sbit u (11 * i + j) = sbit v (11 * i + j)) :
    axis u i = axis v i :=
  congrArg (BitVec.ofNat 11) (readBits_congr h)

/-- A message is its sixteen axes, two switches and two link flags. -/
theorem controlMsg_ext {m n : ControlMsg} (haxes : ∀ (i : Nat) (hi : i < 16), m.axes[i] = n.axes[i])
    (hswitches : ∀ k < 2, m.switches.getLsbD k = n.switches.getLsbD k) (hlost : m.frameLost = n.frameLost)
    (hfailsafe : m.failsafe = n.failsafe) : m = n := by
  obtain ⟨axes, switches, frameLost, failsafe⟩ := m
  obtain ⟨axes', switches', frameLost', failsafe'⟩ := n
  cases hlost
  cases hfailsafe
  cases (Vector.ext haxes : axes = axes')
  cases (BitVec.eq_of_getLsbD_eq hswitches : switches = switches')
  rfl

/-- Settles O31. -/
theorem controlIgnoresReservedBits : Obligations.ControlIgnoresReservedBits := by
  intro p u u' hlen hbits
  by_cases hshort : u.length < p.ctrlMinBytes
  · rw [controlEvent_of_short hshort, controlEvent_of_short (hlen.1 hshort)]
  · rw [controlEvent_of_le (Nat.le_of_not_lt hshort), controlEvent_of_le (Nat.le_of_not_lt (mt hlen.2 hshort))]
    refine congrArg Event.control (controlMsg_ext (fun i hi => ?_) (fun k hk => ?_) ?_ ?_)
    · rw [message_axes _ _ hi, message_axes _ _ hi]
      exact axis_congr fun j hj => hbits _ (.inl (by omega))
    · rw [message_switches _ _ hk, message_switches _ _ hk]
      exact hbits _ (by omega)
    · rw [message_frameLost, message_frameLost, hbits _ (by omega)]
    · rw [message_failsafe, message_failsafe, hbits _ (by omega)]

/-! ## What follows the payload is not read (43_decoder.md R133) -/

theorem byteAt_append_of_lt {u : List Byte} {i : Nat} (h : i < u.length) (extra : List Byte) :
    byteAt (u ++ extra) i = byteAt u i := List.getD_append _ _ _ _ h

theorem sbit_append_of_lt {u : List Byte} {k : Nat} (h : k < 8 * u.length) (extra : List Byte) :
    sbit (u ++ extra) k = sbit u k := by
  rw [sbit, byteAt_append_of_lt (Nat.div_lt_of_lt_mul h), sbit]

/-- With parameters that are `ok` every bit that CONTROL reads stands inside a payload that is not too short. -/
theorem controlEvent_append {p : Config.Params} (hok : p.ok) {u : List Byte} (h : p.ctrlMinBytes ≤ u.length)
    (extra : List Byte) : controlEvent p (u ++ extra) = controlEvent p u := by
  obtain ⟨-, haxes, hswitches, -, hflags⟩ := hok
  have h176 : Config.nAxes * Config.axisW = 176 := rfl
  refine controlIgnoresReservedBits p _ _ ?_ fun k hk => sbit_append_of_lt (by omega) extra
  rw [List.length_append]
  omega

theorem downlinkFields_congr {u v : List Byte} (h : ∀ i < 7, byteAt u i = byteAt v i) :
    downlinkFields u = downlinkFields v := by
  have hdata (j : Fin 4) : byteAt u (3 + j) = byteAt v (3 + j) := h _ (by omega)
  simp only [downlinkFields, h 0 (by decide), h 1 (by decide), h 2 (by decide), hdata]

theorem downlinkEvent_append {u : List Byte} (h : 7 ≤ u.length) (extra : List Byte) :
    downlinkEvent (u ++ extra) = downlinkEvent u := by
  have happend : 7 ≤ (u ++ extra).length := by rw [List.length_append]; exact Nat.le_add_right_of_le h
  rw [downlinkEvent_of_seven_le happend, downlinkEvent_of_seven_le h,
    downlinkFields_congr fun i hi => byteAt_append_of_lt (Nat.lt_of_lt_of_le hi h) extra]

/-- Settles O49, by the frame type. -/
theorem decodersReadInsideThePayload : Obligations.DecodersReadInsideThePayload := by
  intro p t u extra hok hcontrolLen hdownlinkLen
  by_cases hcontrol : t = 0x00#8
  · rw [hcontrol, decodeMessage_control, decodeMessage_control, controlEvent_append hok (hcontrolLen hcontrol)]
  by_cases hdownlink : t = 0x01#8
  · rw [hdownlink, decodeMessage_downlink, decodeMessage_downlink, downlinkEvent_append (hdownlinkLen hdownlink)]
  · rw [decodeMessage_of_ne p hcontrol hdownlink, decodeMessage_of_ne p hcontrol hdownlink]

end Sys2Proof.Machine

namespace Sys2Proof.Machine

/-! ## A chunk consumed (44_pipeline.md R153) -/

@[simp] theorem feedBytes_tr (s : State) (chunk : List Byte) : (feedBytes s chunk).tr = s.tr :=
  feedBytes_keeps (P := fun t => t.tr = s.tr) (fun t b ht => (stepByte_tr t b).trans ht) chunk rfl

@[simp] theorem feedBytes_params (s : State) (chunk : List Byte) : (feedBytes s chunk).params = s.params :=
  feedBytes_keeps (P := fun t => t.params = s.params) (fun t b ht => (stepByte_params t b).trans ht) chunk rfl

@[simp] theorem feedBytes_port (s : State) (chunk : List Byte) : (feedBytes s chunk).port = s.port :=
  feedBytes_keeps (P := fun t => t.port = s.port) (fun t b ht => (stepByte_port t b).trans ht) chunk rfl

/-- What stands behind a chunk at the port is not looked at. -/
theorem feedBytes_setPort (s : State) (chunk : List Byte) (p : List Request) :
    feedBytes { s with port := p } chunk = { feedBytes s chunk with port := p } := by
  induction chunk generalizing s with
  | nil => rfl
  | cons b rest ih => rw [feedBytes_cons, stepByte_setPort, ih, feedBytes_cons]

theorem fed_eq {s : State} (hidle : s.tr.phase = .idle) (chunk : List Byte) :
    s.fed chunk = .next (feedBytes s chunk) :=
  run_presented (pendFeed_consumedByteByByte s.port) chunk hidle rfl

/-- As many steps as a first part of the requests has bytes consume that part. -/
theorem run_first_part {present : List Byte → List Request} (hpresent : ConsumedByteByByte present) (x : List Byte)
    {s : State} (hidle : s.tr.phase = .idle) :
    core.run x.length { s with port := present x } = .next { feedBytes s x with port := present [] } := by
  rw [← feedBytes_setPort]
  exact run_presented hpresent x (s := { s with port := present [] }) hidle rfl

/-- Settles O37. -/
theorem oneByteAtMostOneEvent : Obligations.OneByteAtMostOneEvent := by
  intro s b p hidle hport
  have hstep := step_drive_byte hidle b p
  rw [← hport] at hstep
  refine ⟨_, hstep, (stepByte_setPort s b p).symm, stepByte_sink s b, stepByte_params s b, stepByte_tr s b, rfl⟩

/-- A chunk whose bytes after the first `n` stay behind it is presented byte by byte too. -/
theorem pendFeed_append_consumedByteByByte (y : List Byte) (p : List Request) :
    ConsumedByteByByte fun x => pendFeed (x ++ y) p :=
  fun _ b rest hidle => step_feed_cons hidle b (rest ++ y) p

/-- Settles O39: the first `k` bytes are a first part of the chunk, and the next byte's step adds its event. -/
theorem feedDeliversEventsOneAtATime : Obligations.FeedDeliversEventsOneAtATime := by
  refine ⟨fun s b chunk => rfl, fun s chunk k hidle hk => ⟨?_, fun b hb => ?_⟩⟩
  · have hrun := run_first_part (pendFeed_append_consumedByteByByte (chunk.drop k) s.port) (chunk.take k) hidle
    rwa [List.take_append_drop, List.length_take_of_le hk] at hrun
  · rw [List.take_add_one, hb, feedBytes_append]
    exact stepByte_sink _ b

/-- At most one event a byte. -/
theorem feedBytes_sink (s : State) (chunk : List Byte) :
    ∃ events, (feedBytes s chunk).sink = s.sink ++ events ∧ events.length ≤ chunk.length := by
  induction chunk generalizing s with
  | nil => exact ⟨[], (List.append_nil _).symm, Nat.le_refl 0⟩
  | cons b rest ih =>
    obtain ⟨events, hsink, hlen⟩ := ih (stepByte s b)
    refine ⟨(stepEvent s b).toList ++ events, ?_, ?_⟩
    · rw [feedBytes_cons, hsink, stepByte_sink, List.append_assoc]
    · rw [List.length_append, List.length_cons, Nat.add_comm]
      exact Nat.add_le_add hlen Option.length_toList_le

/-- Settles O40. -/
theorem feedCompletes : Obligations.FeedCompletes := by
  refine fun s chunk => ⟨?_, fun hidle => ?_⟩
  · cases chunk with
    | nil => exact ⟨s, rfl, rfl, rfl, rfl, [], (List.append_nil _).symm, Nat.zero_le 1⟩
    | cons b rest =>
      exact ⟨_, rfl, stepByte_params s b, stepByte_tr s b, rfl, _, stepByte_sink s b, Option.length_toList_le⟩
  · exact ⟨_, fed_eq hidle chunk, feedBytes_params s chunk, feedBytes_tr s chunk, feedBytes_port s chunk,
      feedBytes_sink s chunk⟩

/-- Settles O41. -/
theorem feedIgnoresChunkBoundaries : Obligations.FeedIgnoresChunkBoundaries := by
  refine fun s x y hidle => ⟨fun t u hx hy => ?_, ?_⟩
  · rw [fed_eq hidle] at hx
    cases hx
    rw [fed_eq (by rw [feedBytes_tr, hidle])] at hy
    rw [fed_eq hidle, feedBytes_append, hy]
  · have hrun := run_first_part (pendFeed_consumedByteByByte (pendFeed y s.port)) x hidle
    have hidle' : (feedBytes s x).tr.phase = .idle := by rw [feedBytes_tr, hidle]
    rw [run_add_of_next hrun, fed_eq hidle, feedBytes_append, ← fed_eq hidle', State.fed, feedBytes_port]
    rfl

/-! ## The assembler on a byte and on a run of bytes without a delimiter (40_assembler.md R90) -/

section
variable {s : State} {b : Byte}

theorem stepByte_hunt_delim (hfault : s.fault = .none) (hst : s.st = .hunt) : stepByte s 0x7E#8 = sync s := by
  simp only [stepByte, unlessFaulted_of_none hfault, performByte, hst, if_true]

theorem stepByte_hunt_of_ne (hst : s.st = .hunt) (hb : b ≠ 0x7E#8) : stepByte s b = s := by
  simp only [stepByte, State.unlessFaulted, performByte, hst, if_neg hb, ite_self]

theorem stepByte_opened_delim_of_lt (hfault : s.fault = .none) (hst : s.st = .opened) (hsize : s.buf.size < 3) :
    stepByte s 0x7E#8 = restart s := by
  simp only [stepByte, unlessFaulted_of_none hfault, performByte, hst, if_true, if_pos hsize]

theorem stepByte_opened_delim_of_le (hfault : s.fault = .none) (hst : s.st = .opened) (hsize : 3 ≤ s.buf.size) :
    stepByte s 0x7E#8 = close s := by
  simp only [stepByte, unlessFaulted_of_none hfault, performByte, hst, if_true, if_neg (Nat.not_lt_of_le hsize)]

theorem stepByte_opened_of_room (hfault : s.fault = .none) (hst : s.st = .opened) (hb : b ≠ 0x7E#8)
    (hroom : ∀ n, s.params.cap = some n → s.buf.size < n) : stepByte s b = push b s := by
  simp only [stepByte, unlessFaulted_of_none hfault, performByte, hst, if_neg hb, (hasRoom_iff _ _).2 hroom, if_true]

end

/-- Bytes without a delimiter do nothing in HUNT. -/
theorem feedBytes_hunt {s : State} (hst : s.st = .hunt) {c : List Byte} (hc : 0x7E#8 ∉ c) : feedBytes s c = s := by
  induction c with
  | nil => rfl
  | cons b c ih =>
    obtain ⟨hb, hc⟩ := not_or.1 (mt List.mem_cons.2 hc)
    rw [feedBytes_cons, stepByte_hunt_of_ne hst (Ne.symm hb), ih hc]

/-- In OPEN they are collected, where they fit the buffer. -/
theorem feedBytes_opened {s : State} (hfault : s.fault = .none) (hst : s.st = .opened) {c : List Byte}
    (hc : 0x7E#8 ∉ c) (hfits : ∀ n, s.params.cap = some n → s.buf.size + c.length ≤ n) :
    feedBytes s c = { s with buf := c.foldl Memory.append s.buf } := by
  induction c generalizing s with
  | nil => rfl
  | cons b c ih =>
    obtain ⟨hb, hc⟩ := not_or.1 (mt List.mem_cons.2 hc)
    have hroom (n : Nat) (hn : s.params.cap = some n) : s.buf.size < n := by
      have := hfits n hn
      rw [List.length_cons] at this
      omega
    rw [feedBytes_cons, stepByte_opened_of_room hfault hst (Ne.symm hb) hroom]
    refine ih (s := push b s) hfault hst hc fun n hn => ?_
    have := hfits n hn
    rw [List.length_cons] at this
    rw [push_buf, size_append]
    omega

/-! ## A frame (40_assembler.md R95, 44_pipeline.md R159) -/

/-- The block after a frame with the candidate `c`. -/
def State.afterFrame (s : State) (c : List Byte) : State :=
  { s with buf := [], st := stAfterClose s.params, sink := s.sink ++ [resolve s.params c] }

/-- A run of three or more bytes and a delimiter, from an open frame with nothing collected. -/
theorem feedBytes_candidate {s : State} (hfault : s.fault = .none) (hst : s.st = .opened) (hbuf : s.buf = [])
    {c : List Byte} (hc : 0x7E#8 ∉ c) (hlen : 3 ≤ c.length) (hfits : ∀ n, s.params.cap = some n → c.length ≤ n)
    (rest : List Byte) : feedBytes s (c ++ 0x7E#8 :: rest) = feedBytes (s.afterFrame c) rest := by
  have hcollected : feedBytes s c = { s with buf := Memory.ofBytes c } := by
    have hrun := feedBytes_opened hfault hst hc (by rw [hbuf]; simpa [Memory.size] using hfits)
    rw [hrun, hbuf]
    rfl
  have hsize : 3 ≤ (Memory.ofBytes c).size := by rwa [← length_bytes, bytes_ofBytes]
  have hclose : close { s with buf := Memory.ofBytes c } = s.afterFrame c := by
    rw [close, bytes_ofBytes]
    rfl
  rw [feedBytes_append, feedBytes_cons, hcollected,
    stepByte_opened_delim_of_le (s := { s with buf := Memory.ofBytes c }) hfault hst hsize, hclose]

/-- A whole frame, from a block that hunts. -/
theorem feedBytes_frame {s : State} (hfault : s.fault = .none) (hst : s.st = .hunt) {c : List Byte}
    (hc : 0x7E#8 ∉ c) (hlen : 3 ≤ c.length) (hfits : ∀ n, s.params.cap = some n → c.length ≤ n) (rest : List Byte) :
    feedBytes s (0x7E#8 :: (c ++ 0x7E#8 :: rest)) = feedBytes (s.afterFrame c) rest := by
  rw [feedBytes_cons, stepByte_hunt_delim hfault hst, feedBytes_candidate (s := sync s) hfault rfl rfl hc hlen hfits]
  rfl

theorem fits_of_unbounded {s : State} (hcap : s.params.cap = none) (k n : Nat)
    (hn : s.params.cap = some n) : k ≤ n := by
  rw [hcap] at hn
  cases hn

/-- Settles O43. -/
theorem frameLeavesOnlyItsEvent : Obligations.FrameLeavesOnlyItsEvent := by
  intro s c rest hfault hst hidle hfits hc hlen
  rw [fed_eq hidle, feedBytes_frame hfault hst hc hlen hfits]
  exact (fed_eq (s := s.afterFrame c) hidle rest).symm

/-- Settles O44: after the first frame its closing delimiter has opened the next, or the block hunts until the last
delimiter. -/
theorem sharedDelimiterLosesTheSecondFrame : Obligations.SharedDelimiterLosesTheSecondFrame := by
  intro s a b hfault hst hidle hcap ha hb hlena hlenb
  rw [fed_eq hidle, feedBytes_frame hfault hst ha hlena (fits_of_unbounded hcap _)]
  cases hreopens : s.params.terminatorReopens with
  | true =>
    have hopened : stAfterClose s.params = .opened := if_pos hreopens
    rw [feedBytes_candidate (s := s.afterFrame a) hfault hopened rfl hb hlenb (fits_of_unbounded hcap _), feedBytes_nil]
    simp [State.afterFrame, hopened]
  | false =>
    have hhunt : stAfterClose s.params = .hunt := if_neg (Bool.eq_false_iff.1 hreopens)
    rw [feedBytes_append, feedBytes_hunt (s := s.afterFrame a) hhunt hb, feedBytes_cons,
      stepByte_hunt_delim (s := s.afterFrame a) hfault hhunt]
    rfl

/-- Settles O45: the tail is dropped, the first delimiter opens a frame and the second opens it again. -/
theorem firstWholeFrameIsDelivered : Obligations.FirstWholeFrameIsDelivered := by
  intro s tail c hfault hst hidle hcap htail hc hlen
  rw [fed_eq hidle, feedBytes_append, feedBytes_hunt hst htail, feedBytes_cons, stepByte_hunt_delim hfault hst,
    feedBytes_cons, stepByte_opened_delim_of_lt (s := sync s) hfault rfl (Nat.succ_pos 2),
    feedBytes_candidate (s := restart (sync s)) hfault rfl rfl hc hlen (fits_of_unbounded hcap _)]
  rfl

/-! ## A frame of the harness (30_encoding.md R84) -/

theorem delim_notMem_stuffByte (b : Byte) : 0x7E#8 ∉ stuffByte b := by
  by_cases hb : b = 0x7E#8 ∨ b = 0x7D#8
  · rw [stuffByte_of_reserved hb]
    rcases hb with rfl | rfl <;> decide
  · rw [stuffByte_of_plain hb, List.mem_singleton]
    exact fun h => hb (.inl h.symm)

theorem delim_notMem_stuff (payload : List Byte) : 0x7E#8 ∉ stuff payload := fun h =>
  let ⟨b, _, hb⟩ := List.mem_flatMap.1 h
  delim_notMem_stuffByte b hb

/-- No byte of the interior is a delimiter, where length, type and checksum byte are none. -/
theorem delim_notMem_frameInterior {t : Byte} {payload : List Byte} (hlen : payload.length ≤ 254)
    (hlen_ne : payload.length ≠ 125) (ht : t ≠ 0x7E#8) (hck : checksumFor (frameBody t payload) ≠ 0x7E#8) :
    0x7E#8 ∉ frameInterior t payload := by
  have hlength : BitVec.ofNat 8 (payload.length + 1) ≠ 0x7E#8 := by
    rw [← BitVec.toNat_inj.ne, toNat_lengthByte hlen]
    exact fun h => hlen_ne (Nat.succ.inj h)
  rw [frameInterior_eq, List.mem_cons, List.mem_cons, List.mem_append, List.mem_singleton]
  rintro (h | h | h | h)
  exacts [hlength h.symm, ht h.symm, delim_notMem_stuff payload h, hck h.symm]

/-- The interior of a frame of the harness resolves to the message of its logical payload. -/
theorem resolve_frameInterior (p : Config.Params) (t : Byte) {payload : List Byte} (h : payload.length ≤ 254) :
    resolve p (frameInterior t payload) = decodeMessage p t payload := by
  rw [resolve_of_validate_none p (harnessFramesValidate t payload h), frameInterior_eq, frameType_candidate,
    payload_candidate, unstuffInvertsStuff]

/-- Settles O46. -/
theorem harnessFrameDelivers : Obligations.HarnessFrameDelivers := by
  intro s t payload frame hframe ht hlen_ne hfault hst hidle hfits
  obtain ⟨⟨hlen, -, hck⟩, hsome⟩ := Option.ite_none_right_eq_some.1 hframe
  cases hsome
  have hinterior : (frameInterior t payload).length = (stuff payload).length + 3 := by
    rw [frameInterior_eq, length_candidate]
  have hroom (n : Nat) (hn : s.params.cap = some n) : (frameInterior t payload).length ≤ n := by
    have hframe_len := hfits n hn
    rw [List.cons_append, List.length_cons, List.length_append, List.length_singleton] at hframe_len
    omega
  have hdelim := delim_notMem_frameInterior hlen hlen_ne ht hck
  rw [fed_eq hidle, List.cons_append, feedBytes_frame hfault hst hdelim (by omega) hroom,
    ← resolve_frameInterior _ _ hlen]
  rfl

end Sys2Proof.Machine

namespace Sys2Proof.Machine

/-! ## The runs of a stream (40_assembler.md R98) -/

theorem runs_ne_nil (stream : List Byte) : runs stream ≠ [] := by
  cases stream with
  | nil => exact List.cons_ne_nil _ _
  | cons b rest =>
    rw [runs]
    split_ifs
    · exact List.cons_ne_nil _ _
    · split <;> exact List.cons_ne_nil _ _

/-- A byte that is no delimiter is the first of the first run. -/
theorem runs_cons_of_ne {b : Byte} (hb : b ≠ 0x7E#8) {rest r : List Byte} {rs : List (List Byte)}
    (h : runs rest = r :: rs) : runs (b :: rest) = (b :: r) :: rs := by
  rw [runs, if_neg hb, h]

theorem tail_runs_cons_of_ne {b : Byte} (hb : b ≠ 0x7E#8) (rest : List Byte) :
    (runs (b :: rest)).tail = (runs rest).tail := by
  obtain ⟨r, rs, h⟩ := List.exists_cons_of_ne_nil (runs_ne_nil rest)
  rw [runs_cons_of_ne hb h, h, List.tail_cons, List.tail_cons]

/-- A first run that no delimiter has ended yet. -/
theorem runs_of_notMem {w : List Byte} (hw : 0x7E#8 ∉ w) : runs w = [w] := by
  induction w with
  | nil => rfl
  | cons b w ih =>
    obtain ⟨hb, hw⟩ := not_or.1 (mt List.mem_cons.2 hw)
    exact runs_cons_of_ne (Ne.symm hb) (ih hw)

/-- A first run up to its delimiter. -/
theorem runs_append_delim {w : List Byte} (hw : 0x7E#8 ∉ w) (rest : List Byte) :
    runs (w ++ 0x7E#8 :: rest) = w :: runs rest := by
  induction w with
  | nil => rfl
  | cons b w ih =>
    obtain ⟨hb, hw⟩ := not_or.1 (mt List.mem_cons.2 hw)
    exact runs_cons_of_ne (Ne.symm hb) (ih hw)

/-! ## The candidates among runs with a delimiter on both sides (R95, R99) -/

/-- The candidates among the inner runs of a stream. -/
def candidatesAmong (p : Config.Params) (inner : List (List Byte)) : List (List Byte) :=
  if p.terminatorReopens then inner.filter (fun r => Config.minCand ≤ r.length) else candidatesClosing inner

theorem candidates_eq (p : Config.Params) (stream : List Byte) :
    candidates p stream = candidatesAmong p (innerRuns stream) := rfl

theorem candidatesClosing_cons (w : List Byte) (inner : List (List Byte)) :
    candidatesClosing (w :: inner) =
      if 3 ≤ w.length then w :: candidatesClosing inner.tail else candidatesClosing inner := by
  cases inner <;> rfl

section
variable {p : Config.Params} {w : List Byte} (inner : List (List Byte))

theorem candidatesAmong_nil (p : Config.Params) : candidatesAmong p [] = [] := ite_self _

/-- A run of two or fewer bytes is none. -/
theorem candidatesAmong_short (h : w.length < 3) : candidatesAmong p (w :: inner) = candidatesAmong p inner := by
  rw [candidatesAmong, candidatesAmong, candidatesClosing_cons, if_neg (Nat.not_le_of_lt h),
    List.filter_cons_of_neg (by simpa using h)]

/-- A run of three or more bytes is one, and the next one is too where the terminator reopens. -/
theorem candidatesAmong_long (h : 3 ≤ w.length) :
    candidatesAmong p (w :: inner) =
      w :: candidatesAmong p (if p.terminatorReopens then inner else inner.tail) := by
  rw [candidatesAmong, candidatesAmong, candidatesClosing_cons, if_pos h, List.filter_cons_of_pos (by simpa using h)]
  cases p.terminatorReopens <;> rfl

end

/-- The inner runs that a block still has to come to, the bytes it has collected with the stream: in HUNT a delimiter
must come first. -/
def State.innerRunsAhead (s : State) (stream : List Byte) : List (List Byte) :=
  match s.st with
  | .hunt => innerRuns stream
  | .opened => (runs (s.buf.bytes ++ stream)).dropLast

theorem innerRunsAhead_hunt {s : State} (h : s.st = .hunt) (stream : List Byte) :
    s.innerRunsAhead stream = innerRuns stream := by
  rw [State.innerRunsAhead, h]

theorem innerRunsAhead_opened {s : State} (h : s.st = .opened) (stream : List Byte) :
    s.innerRunsAhead stream = (runs (s.buf.bytes ++ stream)).dropLast := by
  rw [State.innerRunsAhead, h]

/-- With an empty buffer the stream's own runs lie ahead, without the first where no frame is open. -/
theorem innerRunsAhead_of_buf_eq_nil {s : State} (h : s.buf = []) (stream : List Byte) :
    s.innerRunsAhead stream = if s.st = .opened then (runs stream).dropLast else (runs stream).dropLast.tail := by
  cases hst : s.st with
  | hunt => rw [innerRunsAhead_hunt hst, innerRuns, List.tail_dropLast]; rfl
  | opened => rw [innerRunsAhead_opened hst, h]; rfl

/-- The runs of an open frame, cut at a delimiter. -/
theorem innerRunsAhead_opened_delim {s : State} (hst : s.st = .opened) (hbuf : 0x7E#8 ∉ s.buf.bytes)
    (rest : List Byte) : s.innerRunsAhead (0x7E#8 :: rest) = s.buf.bytes :: (runs rest).dropLast := by
  rw [innerRunsAhead_opened hst, runs_append_delim hbuf, List.dropLast_cons_of_ne_nil (runs_ne_nil rest)]

/-- The candidates among them. -/
def State.candidatesAhead (s : State) (stream : List Byte) : List (List Byte) :=
  candidatesAmong s.params (s.innerRunsAhead stream)

theorem candidatesAhead_nil {s : State} (hbuf : s.st = .opened → 0x7E#8 ∉ s.buf.bytes) : s.candidatesAhead [] = [] := by
  have hnone : s.innerRunsAhead [] = [] := by
    cases hst : s.st with
    | hunt => rw [innerRunsAhead_hunt hst]; rfl
    | opened => rw [innerRunsAhead_opened hst, List.append_nil, runs_of_notMem (hbuf hst)]; rfl
  rw [State.candidatesAhead, hnone, candidatesAmong_nil]

theorem candidatesAhead_sync {s : State} (hst : s.st = .hunt) (rest : List Byte) :
    s.candidatesAhead (0x7E#8 :: rest) = (sync s).candidatesAhead rest := by
  rw [State.candidatesAhead, State.candidatesAhead, innerRunsAhead_of_buf_eq_nil (s := sync s) rfl,
    innerRunsAhead_hunt hst]
  rfl

theorem candidatesAhead_drop {s : State} {b : Byte} (hst : s.st = .hunt) (hb : b ≠ 0x7E#8) (rest : List Byte) :
    s.candidatesAhead (b :: rest) = s.candidatesAhead rest := by
  rw [State.candidatesAhead, State.candidatesAhead, innerRunsAhead_hunt hst, innerRunsAhead_hunt hst, innerRuns,
    innerRuns, tail_runs_cons_of_ne hb]

theorem candidatesAhead_restart {s : State} (hst : s.st = .opened) (hbuf : 0x7E#8 ∉ s.buf.bytes)
    (hsize : s.buf.size < 3) (rest : List Byte) :
    s.candidatesAhead (0x7E#8 :: rest) = (restart s).candidatesAhead rest := by
  rw [← length_bytes] at hsize
  rw [State.candidatesAhead, State.candidatesAhead, innerRunsAhead_of_buf_eq_nil (s := restart s) rfl,
    innerRunsAhead_opened_delim hst hbuf, candidatesAmong_short _ hsize]
  rfl

/-- CLOSE takes the collected run as a candidate; the next run is ahead where the terminator reopens. -/
theorem candidatesAhead_close {s : State} (hst : s.st = .opened) (hbuf : 0x7E#8 ∉ s.buf.bytes)
    (hsize : 3 ≤ s.buf.size) (rest : List Byte) :
    s.candidatesAhead (0x7E#8 :: rest) = s.buf.bytes :: (close s).candidatesAhead rest := by
  rw [← length_bytes] at hsize
  rw [State.candidatesAhead, State.candidatesAhead, innerRunsAhead_of_buf_eq_nil (s := close s) rfl,
    innerRunsAhead_opened_delim hst hbuf, candidatesAmong_long _ hsize, close_st, close_params, stAfterClose]
  cases s.params.terminatorReopens <;> rfl

theorem candidatesAhead_push {s : State} (hst : s.st = .opened) (b : Byte) (rest : List Byte) :
    s.candidatesAhead (b :: rest) = (push b s).candidatesAhead rest := by
  rw [State.candidatesAhead, State.candidatesAhead, innerRunsAhead_opened (s := push b s) hst,
    innerRunsAhead_opened hst, push_buf, bytes_append, List.append_assoc]
  rfl

/-- The events of a stream are those of the candidates ahead, in order. -/
theorem feedBytes_sink_eq_candidates (stream : List Byte) {s : State} (hfault : s.fault = .none)
    (hcap : s.params.cap = none) (hbuf : s.st = .opened → 0x7E#8 ∉ s.buf.bytes) :
    (feedBytes s stream).sink = s.sink ++ (s.candidatesAhead stream).map (resolve s.params) := by
  induction stream generalizing s with
  | nil => rw [candidatesAhead_nil hbuf, List.map_nil, List.append_nil, feedBytes_nil]
  | cons b rest ih =>
    rw [feedBytes_cons, stepByte, unlessFaulted_of_none hfault]
    rcases performByte_cases b s with ⟨hst, rfl, h⟩ | ⟨hst, hb, h⟩ | ⟨hst, rfl, hsize, h⟩ | ⟨hst, rfl, hsize, h⟩ |
      ⟨hst, hb, _, h⟩ | ⟨_, _, hfull, _⟩
    · rw [h, candidatesAhead_sync hst, ih (s := sync s) hfault hcap fun _ => List.not_mem_nil]
      rfl
    · rw [h, candidatesAhead_drop hst hb, ih hfault hcap hbuf]
    · rw [h, candidatesAhead_restart hst (hbuf hst) hsize, ih (s := restart s) hfault hcap fun _ => List.not_mem_nil]
      rfl
    · rw [h, candidatesAhead_close hst (hbuf hst) hsize, ih (s := close s) hfault hcap fun _ => List.not_mem_nil,
        close_sink, List.append_assoc]
      rfl
    · have hcollected : 0x7E#8 ∉ (push b s).buf.bytes := by
        rw [push_buf, bytes_append, List.mem_append, List.mem_singleton]
        exact not_or.2 ⟨hbuf hst, Ne.symm hb⟩
      rw [h, candidatesAhead_push hst, ih (s := push b s) hfault hcap fun _ => hcollected]
      rfl
    · rw [hcap] at hfull
      cases hfull

/-- Settles O42. -/
theorem eventsAreTheCandidatesInOrder : Obligations.EventsAreTheCandidatesInOrder := by
  intro s stream hfault hst hidle hcap
  refine ⟨_, fed_eq hidle stream, ?_⟩
  have hnotopen : s.st = .opened → 0x7E#8 ∉ s.buf.bytes := fun hopen => by rw [hst] at hopen; cases hopen
  rw [feedBytes_sink_eq_candidates stream hfault hcap hnotopen, State.candidatesAhead, innerRunsAhead_hunt hst,
    candidates_eq]

end Sys2Proof.Machine

namespace Sys2Proof.Machine

/-! ## A resolution run operation by operation (44_pipeline.md R152) -/

/-- At rest the block stays as it is. -/
theorem run_at_rest {s : State} (hport : s.port = []) (hidle : s.tr.phase = .idle) (k : Nat) :
    core.run k s = .next s := by
  induction k with
  | zero => rfl
  | succ k ih => rw [run_succ_of_next (step_of_port_nil hport (.inr hidle)), ih]

section
variable {s : State}

/-- With nothing presented a resolution in progress goes on. -/
theorem fetch_of_port_nil (hfault : s.fault = .none) (hport : s.port = []) {phase : Phase}
    (hphase : s.tr.phase = phase) (hne : phase ≠ .idle) : fetch s = fetchResolution s :=
  fetch_of_resolution hfault (fun r p h => by rw [hport] at h; cases h) (hphase ▸ hne)

theorem step_checkLength (hfault : s.fault = .none) (hport : s.port = []) (hphase : s.tr.phase = .checkLength) :
    step s = .next (checkLength s) := by
  have hfetch := fetch_of_port_nil hfault hport hphase (by decide)
  rw [step_of_fetch_key (rest := []) (hfetch.trans (fetchResolution_checkLength hphase)) rfl,
    exec_chklen_of_unfaulted hfault]

theorem step_checkSum (hfault : s.fault = .none) (hport : s.port = []) (hphase : s.tr.phase = .checkSum) :
    step s = .next (checkSum s) := by
  have hfetch := fetch_of_port_nil hfault hport hphase (by decide)
  rw [step_of_fetch_key (rest := []) (hfetch.trans (fetchResolution_checkSum hphase)) rfl,
    exec_chksum_of_unfaulted hfault]

/-- The state after the raw bytes of a payload are unstuffed, all but `raw`. -/
abbrev State.unstuffed (s : State) (esc : Bool) (out raw : List Byte) : State :=
  { s with tr := { s.tr with raw := raw, esc := esc, out := s.tr.out ++ out } }

theorem step_raw (hfault : s.fault = .none) (hport : s.port = []) (hphase : s.tr.phase = .payload) {b : Byte}
    {rest : List Byte} (hraw : s.tr.raw = b :: rest) :
    step s = .next (s.unstuffed (b == Config.esc) (unstuffSerial s.tr.esc [b]) rest) := by
  have hfetch := fetch_of_port_nil hfault hport hphase (by decide)
  rw [step_of_fetch_key (rest := []) (hfetch.trans (fetchResolution_raw hphase hraw)) rfl, decodeRawByte, unstuffSerial]
  by_cases hb : b = Config.esc
  · rw [if_pos hb, if_pos hb, unstuffSerial_nil, State.unstuffed, List.append_nil, beq_iff_eq.2 hb]
    exact exec_unstuffEsc_of_unfaulted hfault
  · rw [if_neg hb, if_neg hb, unstuffSerial_nil, beq_eq_false_iff_ne.2 hb]
    exact exec_unstuffPlain_of_unfaulted b hfault

/-- The type byte selects the decoder of `decodeMessage` (43_decoder.md R131). -/
theorem exec_decodeFrameType (hfault : s.fault = .none) (t : Byte) :
    exec (decodeFrameType t) s = .next (s.finish (decodeMessage s.params t s.tr.out)) := by
  by_cases hcontrol : t = 0x00#8
  · rw [hcontrol, decodeMessage_control]
    exact exec_control_of_unfaulted hfault
  by_cases hdownlink : t = 0x01#8
  · rw [hdownlink, decodeMessage_downlink]
    exact exec_downlink_of_unfaulted hfault
  · rw [decodeFrameType_of_ne hcontrol hdownlink, decodeMessage_of_ne _ hcontrol hdownlink]
    exact exec_unknown_of_unfaulted t hfault

theorem step_frameType (hfault : s.fault = .none) (hport : s.port = []) (hphase : s.tr.phase = .payload)
    (hraw : s.tr.raw = []) {l t : Byte} {c : List Byte} (hcand : s.tr.cand = l :: t :: c) :
    step s = .next (s.finish (decodeMessage s.params t s.tr.out)) := by
  have hfetch := (fetch_of_port_nil hfault hport hphase (by decide)).trans (fetchResolution_frame hphase hraw)
  have htype : (s.tr.cand.drop 1).take 1 = [t] := by rw [hcand]; rfl
  rw [htype] at hfetch
  rw [step_of_fetch_key hfetch (decode_frame_cons t []), exec_decodeFrameType hfault]

end

theorem unstuffSerial_cons (esc : Bool) (b : Byte) (rest : List Byte) :
    unstuffSerial esc (b :: rest) = unstuffSerial esc [b] ++ unstuffSerial (b == Config.esc) rest := by
  simp only [unstuffSerial_eq_unstuffAfter, unstuffAfter_cons, List.append_assoc]
  rfl

/-- One step for each raw byte unstuffs the payload. -/
theorem run_raw {s : State} (hfault : s.fault = .none) (hport : s.port = []) (hphase : s.tr.phase = .payload)
    {r : List Byte} (hraw : s.tr.raw = r) :
    ∃ esc, core.run r.length s = .next (s.unstuffed esc (unstuffSerial s.tr.esc r) []) := by
  induction r generalizing s with
  | nil =>
    refine ⟨s.tr.esc, ?_⟩
    rw [List.length_nil, run_zero, State.unstuffed, unstuffSerial_nil, List.append_nil, ← hraw]
  | cons b rest ih =>
    obtain ⟨esc, hrun⟩ :=
      ih (s := s.unstuffed (b == Config.esc) (unstuffSerial s.tr.esc [b]) rest) hfault hport hphase rfl
    refine ⟨esc, ?_⟩
    rw [List.length_cons, run_succ_of_next (step_raw hfault hport hphase hraw), hrun,
      unstuffSerial_cons s.tr.esc b rest, State.unstuffed, List.append_assoc]

/-- A candidate of three or more bytes in its fields (42_validator.md R121). -/
theorem exists_candidate_fields {c : List Byte} (h : 3 ≤ c.length) : ∃ l t r ck, c = l :: t :: (r ++ [ck]) := by
  match c with
  | l :: t :: x :: rest =>
    exact ⟨l, t, (x :: rest).dropLast, _, by rw [List.dropLast_append_getLast (List.cons_ne_nil x rest)]⟩
  | [] | [_] | [_, _] => simp at h

theorem three_le_length_of_chklenPasses {c : List Byte} (h : chklenPasses c = true) : 3 ≤ c.length := by
  by_contra hshort
  rw [chklenPasses_of_length_lt_three (Nat.lt_of_not_le hshort)] at h
  cases h

/-- From both checks on: the payload is unstuffed and decoded. -/
theorem run_payload {s : State} (hfault : s.fault = .none) (hport : s.port = []) {l t ck : Byte} {r : List Byte}
    (hcand : s.tr.cand = l :: t :: (r ++ [ck])) :
    core.run (r.length + 2) (startUnstuff s) = .next (s.finish (decodeMessage s.params t (unstuff r))) := by
  have hraw : (startUnstuff s).tr.raw = r := by rw [startUnstuff_tr, hcand, rawPayload_candidate]
  obtain ⟨esc, hrun⟩ := run_raw (s := startUnstuff s) hfault hport rfl hraw
  have htype :=
    step_frameType (s := (startUnstuff s).unstuffed esc (unstuffSerial false r) []) hfault hport rfl rfl hcand
  have hrest := run_at_rest (s := s.finish (decodeMessage s.params t (unstuffSerial false r))) hport rfl 1
  rw [run_add_of_next hrun, unstuff_eq_serial]
  exact (run_succ_of_next htype 1).trans hrest

/-- A resolution, from its first check on, ends with the event of its candidate. -/
theorem run_resolution {s : State} (hfault : s.fault = .none) (hport : s.port = [])
    (hphase : s.tr.phase = .checkLength) :
    core.run (s.tr.cand.length + 1) s = .next (s.finish (resolve s.params s.tr.cand)) := by
  have hchklen := step_checkLength hfault hport hphase
  have hrest (e : Event) (k : Nat) := run_at_rest (s := s.finish e) hport rfl k
  rcases checkLength_cases s with ⟨hlen, h⟩ | ⟨hlen, h⟩ <;> rw [h] at hchklen
  · obtain ⟨l, t, r, ck, hcand⟩ := exists_candidate_fields (three_le_length_of_chklenPasses hlen)
    have hchksum := step_checkSum (s := awaitChecksum s) hfault hport rfl
    rw [run_succ_of_next hchklen, (by rw [hcand, length_candidate] : s.tr.cand.length = r.length + 2 + 1)]
    rcases checkSum_cases (awaitChecksum s) with ⟨hsum, h⟩ | ⟨hsum, h⟩ <;> rw [h] at hchksum <;>
      rw [run_succ_of_next hchksum]
    · have hpasses : validate s.tr.cand = none := (validate_eq_none_iff _).2 ⟨hlen, hsum⟩
      rw [run_payload (s := awaitChecksum s) hfault hport hcand, resolve_of_validate_none _ hpasses, hcand,
        frameType_candidate, payload_candidate]
      rfl
    · rw [resolve_of_validate_some _ ((validate_eq_some_iff _ _).2 (.inr ⟨hlen, hsum, rfl⟩))]
      exact hrest _ _
  · rw [run_succ_of_next hchklen, resolve_of_chklenPasses_eq_false _ hlen]
    exact hrest _ _

/-- Settles O47. -/
theorem closeIsItsOperationsInOrder : Obligations.CloseIsItsOperationsInOrder := by
  intro s hfault hport hsettled
  have hclose : s.latchCandidate.finish (resolve s.params s.buf.bytes) = close s := by
    rw [close, State.deliver, State.endFrame, ← hsettled.symm]
    rfl
  have hrun := run_resolution (s := s.latchCandidate) hfault hport rfl
  rw [exec_close_of_unfaulted hfault, ← hclose, ← length_bytes]
  exact hrun

/-! ## The streaming form (70_reset_and_hazards.md R197) -/

/-- A register set with the counter, the sum and the held byte replaced: what the unstuffer does not touch. -/
abbrev StreamRegs.counted (g : StreamRegs) (count : Nat) (acc : Byte) (held : Option Byte) : StreamRegs :=
  { g with count := count, acc := acc, held := held }

theorem unstuffByte_counted (p : Config.Params) (g : StreamRegs) (count : Nat) (acc : Byte) (held : Option Byte)
    (b : Byte) : (g.counted count acc held).unstuffByte p b = (g.unstuffByte p b).counted count acc held := by
  unfold StreamRegs.unstuffByte
  split_ifs <;> rfl

/-- A byte pushed sends the one held before it through the unstuffer. -/
theorem push_counted (p : Config.Params) (g : StreamRegs) (n : Nat) (acc held b : Byte) :
    (g.counted (n + 2) acc (some held)).push p b =
      (g.unstuffByte p held).counted (n + 3) (carryAdd acc b) (some b) := by
  simp only [StreamRegs.push, unstuffByte_counted]

/-- The bytes of index 2 on go through the unstuffer one behind, the last one held back. -/
theorem foldl_push_eq (p : Config.Params) {g : StreamRegs} (hcount : g.count = 2) (hheld : g.held = none)
    (r : List Byte) (ck : Byte) :
    (r ++ [ck]).foldl (StreamRegs.push p) g =
      (r.foldl (StreamRegs.unstuffByte p) g).counted (r.length + 3) ((r ++ [ck]).foldl carryAdd g.acc) (some ck) := by
  induction r using List.reverseRecOn generalizing ck with
  | nil => simp [StreamRegs.push, hcount, hheld]
  | append_singleton r x ih =>
    calc (r ++ [x] ++ [ck]).foldl (StreamRegs.push p) g
      _ = ((r ++ [x]).foldl (StreamRegs.push p) g).push p ck := by rw [List.foldl_append]; rfl
      _ = _ := by rw [ih, push_counted]; simp

/-- The unstuffer keeps the first `streamKeep` bytes of its output. -/
theorem foldl_unstuffByte_out (p : Config.Params) (r : List Byte) (g : StreamRegs) :
    (r.foldl (StreamRegs.unstuffByte p) g).out =
      g.out ++ (unstuffSerial g.esc r).take (streamKeep p - g.out.length) := by
  induction r generalizing g with
  | nil => simp
  | cons b r ih =>
    rw [List.foldl_cons, ih, StreamRegs.unstuffByte, unstuffSerial]
    by_cases hb : b = Config.esc
    · rw [if_pos hb, if_pos hb]
    by_cases hroom : g.out.length < streamKeep p
    · obtain ⟨k, hk⟩ : ∃ k, streamKeep p - g.out.length = k + 1 := ⟨_, (Nat.succ_pred (by omega)).symm⟩
      have hk' : streamKeep p - (g.out.length + 1) = k := by omega
      rw [if_neg hb, if_neg hb, if_pos hroom, hk, List.take_succ_cons, List.length_append, List.length_singleton, hk',
        List.append_assoc]
      rfl
    · have hfull : streamKeep p - g.out.length = 0 := by omega
      rw [if_neg hb, if_neg hb, if_neg hroom, hfull, List.take_zero, List.take_zero]

theorem foldl_unstuffByte_length (p : Config.Params) (r : List Byte) (g : StreamRegs) :
    (r.foldl (StreamRegs.unstuffByte p) g).length = g.length := by
  induction r generalizing g with
  | nil => rfl
  | cons b r ih =>
    rw [List.foldl_cons, ih, StreamRegs.unstuffByte]
    split_ifs <;> rfl

theorem foldl_unstuffByte_type (p : Config.Params) (r : List Byte) (g : StreamRegs) :
    (r.foldl (StreamRegs.unstuffByte p) g).type = g.type := by
  induction r generalizing g with
  | nil => rfl
  | cons b r ih =>
    rw [List.foldl_cons, ih, StreamRegs.unstuffByte]
    split_ifs <;> rfl

/-- With parameters that are `ok` a decoder needs no more of the payload than is kept. -/
theorem decodeMessage_take_streamKeep {p : Config.Params} (hok : p.ok) (t : Byte) (u : List Byte) :
    decodeMessage p t (u.take (streamKeep p)) = decodeMessage p t u := by
  have hcontrol : p.ctrlMinBytes ≤ streamKeep p := Nat.le_max_left _ _
  have hdownlink : 7 ≤ streamKeep p := Nat.le_max_right _ _
  by_cases hlen : u.length ≤ streamKeep p
  · rw [List.take_of_length_le hlen]
  · have hkept : (u.take (streamKeep p)).length = streamKeep p :=
      List.length_take_of_le (Nat.le_of_lt (Nat.lt_of_not_le hlen))
    have happend := decodersReadInsideThePayload p t (u.take (streamKeep p)) (u.drop (streamKeep p)) hok
      (fun _ => by rwa [hkept]) (fun _ => by rwa [hkept])
    rw [List.take_append_drop] at happend
    exact happend.symm

theorem streamResolve_of_length_lt_three (p : Config.Params) {c : List Byte} (h : c.length < 3) :
    streamResolve p c = .err .lengthMismatch := by
  match c with
  | [] | [_] | [_, _] => rfl
  | _ :: _ :: _ :: rest => exact absurd h (Nat.not_lt_of_le (Nat.le_add_left 3 rest.length))

theorem carryPasses_eq_false_iff (c : List Byte) :
    carryPasses c = false ↔ carrySum c ≠ 0x00#8 ∧ carrySum c ≠ 0xFF#8 := by
  rw [carryPasses, Bool.or_eq_false_iff, beq_eq_false_iff_ne, beq_eq_false_iff_ne]

/-- The registers after the first two bytes. -/
def StreamRegs.afterTwo (l t : Byte) : StreamRegs := ⟨2, l, t, carryAdd (carryAdd 0x00#8 l) t, none, false, []⟩

/-- The streaming form in terms of the candidate's fields. -/
theorem streamResolve_candidate (p : Config.Params) (l t ck : Byte) (r : List Byte) :
    streamResolve p (l :: t :: (r ++ [ck])) =
      if chklenPasses (l :: t :: (r ++ [ck])) = false then .err .lengthMismatch
      else if carryPasses (l :: t :: (r ++ [ck])) = false then .err .checksumMismatch
      else decodeMessage p t ((unstuff r).take (streamKeep p)) := by
  have hregs : (l :: t :: (r ++ [ck])).foldl (StreamRegs.push p) StreamRegs.start =
      (r.foldl (StreamRegs.unstuffByte p) (.afterTwo l t)).counted (r.length + 3) (carrySum (l :: t :: (r ++ [ck])))
        (some ck) :=
    foldl_push_eq p (g := .afterTwo l t) rfl rfl r ck
  have hlength := foldl_unstuffByte_length p r (.afterTwo l t)
  have htype := foldl_unstuffByte_type p r (.afterTwo l t)
  have hout := foldl_unstuffByte_out p r (.afterTwo l t)
  rw [streamResolve, hregs, StreamRegs.finish, hlength, htype, hout, ← length_candidate l t ck r]
  refine if_congr (chklenPasses_eq_false_iff _).symm rfl (if_congr (carryPasses_eq_false_iff _).symm rfl ?_)
  rw [unstuff_eq_serial]
  rfl

/-- Settles O48. -/
theorem streamingFormAgrees : Obligations.StreamingFormAgrees := by
  intro p c hok
  by_cases hshort : c.length < 3
  · rw [streamResolve_of_length_lt_three p hshort,
      resolve_of_chklenPasses_eq_false p (chklenPasses_of_length_lt_three hshort)]
  obtain ⟨l, t, r, ck, rfl⟩ := exists_candidate_fields (Nat.le_of_not_lt hshort)
  have hcarry : carryPasses (l :: t :: (r ++ [ck])) = chksumPasses (l :: t :: (r ++ [ck])) := by
    rw [Bool.eq_iff_iff, carryPasses_iff, chksumPasses_iff]
  rw [streamResolve_candidate, decodeMessage_take_streamKeep hok, hcarry]
  rcases validate_cases (l :: t :: (r ++ [ck])) with ⟨hlen, h⟩ | ⟨hlen, hsum, h⟩ | ⟨hlen, hsum, h⟩
  · rw [resolve_of_validate_some p h, if_pos hlen]
  · rw [resolve_of_validate_some p h, if_neg (by simp [hlen]), if_pos hsum]
  · rw [resolve_of_validate_none p h, if_neg (by simp [hlen]), if_neg (by simp [hsum]), frameType_candidate,
      payload_candidate]

/-! ## The output lines (30_encoding.md R80 to R83) -/

/-- The codes 6 and 7 are never produced. -/
theorem toNat_kind_le_five (e : Event) : e.kind.toNat ≤ 5 := by
  cases e with
  | control m => exact Nat.zero_le 5
  | downlink m => exact Nat.le_add_left 1 4
  | err k => cases k <;> decide

/-- Settles O58. -/
theorem eventLines : Obligations.EventLines :=
  ⟨fun _ => rfl, fun _ => rfl, rfl, rfl, rfl, rfl, toNat_kind_le_five, rfl, fun _ => rfl, fun _ => rfl, fun _ => rfl⟩

end Sys2Proof.Machine
